-- ==== Sys2Proof/Word.lean ====
section
/-! DEFINITION. The words of the DMX framer: a byte, the 16-bit payload length, a port name. All values are
unsigned (R9). -/

namespace Sys2Proof

/-- A byte: 8 bits, 0 to 255 (R9). -/
abbrev Byte := BitVec 8

/-- The payload-length operand `L`, `LEN_W = 16` bits, unsigned (R8, R25). -/
abbrev Len := BitVec 16

/-- A port name: an opaque byte string that the framer only passes on (R63). -/
abbrev PortName := List Byte

end Sys2Proof
end

