-- ==== Sys2Proof/Config.lean ====
section
/-! DEFINITION. What one implementation fixes: the constants of R7, the decided parameters of R8, the open
parameters of R8 as constants without a body, and the free values of the transport (R136). -/

namespace Sys2Proof.Config

/-- `START`, packet byte 0 (R7). -/
def startByte : Byte := 0x7E
/-- `CMD_SEND`, packet byte 1 (R7). -/
def cmdSend : Byte := 0x06
/-- `SUBCMD`, packet byte 4 (R7). -/
def subCmd : Byte := 0x00
/-- `END`, the last packet byte (R7). -/
def endByte : Byte := 0xE7
/-- `HDR_LEN`, the bytes before the payload (R7). -/
def hdrLen : Nat := 5
/-- `OVERHEAD`, packet length minus payload length (R7). -/
def overhead : Nat := 6
/-- `MIN_LEN`, the least payload length WRITE accepts (R7). -/
def minLen : Nat := 24
/-- `MAX_LEN`, the greatest payload length WRITE accepts (R7). -/
def maxLen : Nat := 512
/-- `PAY_CAP`, bytes of payload storage on the WRITE path (R8, D14). -/
def payCap : Nat := 512
/-- `PKT_CAP`, bytes of packet buffer on the WRITE path (R8, D14). -/
def pktCap : Nat := 518

/-- The parity handed to the transport, an abstract value without a bit encoding (R64).
`other` stands for whatever else a transport's surface may offer; the framer never issues it (log 21,
DESIGN CHOICE, safe). -/
inductive Parity where
  | parityNone
  | other (code : Nat)
deriving DecidableEq, Repr

/-- The stop bits handed to the transport, an abstract value without a bit encoding (R64; log 21). -/
inductive StopBits where
  | one
  | other (code : Nat)
deriving DecidableEq, Repr

/-- The serial parameters a T_OPEN carries (R64, R131). -/
structure Serial where
  baud : Nat
  parity : Parity
  dataBits : Nat
  stopBits : StopBits
deriving DecidableEq, Repr

/-- The hardwired serial parameters: `BAUD`, `PARITY`, `DATA_BITS`, `STOP_BITS` (R7, R24). -/
def serial : Serial := { baud := 115200, parity := .parityNone, dataBits := 8, stopBits := .one }

/-- `REOPEN_AFTER_CLOSE` (R8, D5): the spec leaves it open, so no proof sees its value (log 7). -/
opaque reopenAfterClose : Bool

/-- `NAME_MAX - 1`: the spec says only that `NAME_MAX` is at least 1 (R8, D15; log 8). -/
opaque nameMaxExtra : Nat

/-- `NAME_MAX`, the greatest length of a port name (R8). -/
def nameMax : Nat := nameMaxExtra + 1

/-- `TERR_W - 1`: the spec says only that `TERR_W` is at least 1 (R8, D17; log 9). -/
opaque terrWExtra : Nat

/-- `TERR_W`, the width of the transport's failure information (R8). -/
def terrW : Nat := terrWExtra + 1

end Sys2Proof.Config

namespace Sys2Proof

/-- The opaque failure information `e` of a transport: `TERR_W` bits, copied and never computed on (R136). -/
abbrev TErr := BitVec Config.terrW

/-- What the transport answers to a primitive (R136). -/
inductive Answer where
  | ok
  | fail (e : TErr)
deriving DecidableEq, Repr, Inhabited

/-- Free value: the `k`-th answer of the transport that no one has given (R136: "a model must quantify over all
of them"; log 4). -/
opaque Config.freeAnswer : Nat → Answer

/-- Free value: the `k`-th sample of the transport's `isOpen` that no one has given (R135, R181, U14; log 5). -/
opaque Config.freeIsOpen : Nat → Bool

end Sys2Proof
end

