-- ==== Sys2Proof/Syntax.lean ====
section
/-! DEFINITION. The instructions of the DMX framer, one constructor per row of spec/opcode_table.json, and the
words of its three interfaces (30_encoding.md): the host command, the wire frame, the transport primitive. -/

namespace Sys2Proof

/-- One constructor per row of the opcode table, with the operands the row gives (R62, R60, R64). -/
inductive Instr where
  /-- OPEN, `op = 1`: the port name (R101). -/
  | hostOpen (portName : PortName)
  /-- WRITE, `op = 2`: the length `L` and the bytes the host has put into PAY, from index 0 (R102). -/
  | hostWrite (len : Len) (pay : List Byte)
  /-- CLOSE, `op = 3` (R103). -/
  | hostClose
  /-- NAME, `op = 4` (R104). -/
  | hostName
  /-- DISPOSE, `op = 5` (R105). -/
  | hostDispose
  /-- Reserved host command code 0 (R107). -/
  | reserved0
  /-- Reserved host command code 6 (R107). -/
  | reserved6
  /-- Reserved host command code 7 (R107). -/
  | reserved7
  /-- SEND_PACKET: the frame of a payload, the result of ENCODE (R80). -/
  | sendPacket (len : Len) (pay : List Byte)
  /-- T_OPEN, `t_cmd = 1`: the port name; the serial parameters are constants (R131). -/
  | tOpen (portName : PortName)
  /-- T_WRITE, `t_cmd = 2`: one whole frame (R132). -/
  | tWrite (bytes : List Byte)
  /-- T_CLOSE, `t_cmd = 3` (R133). -/
  | tClose
  /-- T_DISPOSE, `t_cmd = 4` (R134). -/
  | tDispose
deriving DecidableEq, Repr

/-- A word of the command port: `op[2:0]` and the operand lines (format HOSTCMD, R62). An operation takes the
operand lines R62 gives it and does not look at the others. -/
structure HostWord where
  op : BitVec 3
  portName : PortName
  len : Len
  pay : List Byte
deriving DecidableEq, Repr

/-- A word of the primitive port: `t_cmd[2:0]` and the arguments (format TCMD, R64). -/
structure PrimWord where
  tcmd : BitVec 3
  portName : PortName
  serial : Config.Serial
  bytes : List Byte
deriving DecidableEq, Repr

/-- The encoded form of an instruction, by interface: a host command (R62), a frame in transmission order (R60),
a transport primitive (R64). -/
inductive Encoded where
  | host (w : HostWord)
  | wire (bytes : List Byte)
  | prim (w : PrimWord)
deriving DecidableEq, Repr

/-- What the world outside presents to the framer, one thing at a time (log 1): a host command; a request to the
PacketEncoder alone, given by the frame it is to build (log 13); a reset between operations (R180, log 24). -/
inductive Request where
  | command (w : HostWord)
  | packet (frame : List Byte)
  | reset
deriving DecidableEq, Repr

end Sys2Proof
end

