-- ==== Sys2Proof/Decode.lean ====
section
/-! DEFINITION. Encodings (30_encoding.md): the frame of a payload and how a receiver reads it back; decoding of
the three formats, total, rejecting by name; then the encoder, from the same tables; then the opcode table's own
words. -/

namespace Sys2Proof

/-- Why a word is no instruction. -/
inductive DecodeError where
  /-- A frame ends before its header does (R61). -/
  | shortHeader
  /-- Byte 0 is not START (R60). -/
  | badStart
  /-- Byte 1 is not the Send-Packet command (R67 b). -/
  | badCommand
  /-- Byte 4 is not zero (R67 b). -/
  | badSubCommand
  /-- The frame has not `L + 6` bytes for the `L` of its header (R61). -/
  | badLength
  /-- The byte at offset `5 + L` is not END (R61). -/
  | badEnd
  /-- Primitive codes 0, 5, 6 and 7 are never issued (R67 e). -/
  | neverIssuedPrimitive
  /-- A T_OPEN with other serial parameters is never issued (R131). -/
  | badSerial
  /-- A T_WRITE's frame has a length WRITE never lets through (R67 c, R132). -/
  | badPacketSize
deriving DecidableEq, Repr

/-! ## The frame (R60, R65) -/

/-- `len_lo = L[7:0]` (R65). -/
def lenLo (len : Len) : Byte := len.extractLsb' 0 8

/-- `len_hi = L[15:8]` (R65). -/
def lenHi (len : Len) : Byte := len.extractLsb' 8 8

/-- `L = len_lo + 256 * len_hi` (R61). -/
def lenOf (lo hi : Byte) : Len := hi ++ lo

/-- `ENCODE(L, pay)` as a byte sequence (R80, its second form; table R45). -/
def encodeFrame (len : Len) (pay : List Byte) : List Byte :=
  [Config.startByte, Config.cmdSend, lenLo len, lenHi len, Config.subCmd] ++ pay.take len.toNat ++ [Config.endByte]

/-- How a receiver reads a frame back (R61): five header bytes, `L` payload bytes, END at offset `5 + L`. -/
def parseFrame (bytes : List Byte) : Except DecodeError (Len × List Byte) :=
  match bytes with
  | b0 :: b1 :: lo :: hi :: b4 :: rest =>
    if b0 ≠ Config.startByte then .error .badStart
    else if b1 ≠ Config.cmdSend then .error .badCommand
    else if b4 ≠ Config.subCmd then .error .badSubCommand
    else if rest.length ≠ (lenOf lo hi).toNat + 1 then .error .badLength
    else if rest.drop (lenOf lo hi).toNat ≠ [Config.endByte] then .error .badEnd
    else .ok (lenOf lo hi, rest.take (lenOf lo hi).toNat)
  | _ => .error .shortHeader

/-- WRITE's size test (R102 step 1): unsigned, inclusive at both ends (R82). -/
def sizeOk (len : Len) : Bool := decide (Config.minLen ≤ len.toNat) && decide (len.toNat ≤ Config.maxLen)

/-- At most NAME_MAX bytes. One byte always fits, since NAME_MAX is at least 1 (R8). -/
def nameShort (n : PortName) : Bool :=
  match n with
  | [] => true
  | [_] => true
  | _ :: _ :: rest => decide (rest.length + 2 ≤ Config.nameMax)

/-- The operand range of a port name: 1 to NAME_MAX bytes (R101). -/
def nameFits (n : PortName) : Bool := !n.isEmpty && nameShort n

/-! ## Decoding -/

/-- Format HOSTCMD (R62): every one of the eight codes has a row. -/
def decodeHost (w : HostWord) : Instr :=
  match w.op.toNat with
  | 1 => .hostOpen w.portName
  | 2 => .hostWrite w.len w.pay
  | 3 => .hostClose
  | 4 => .hostName
  | 5 => .hostDispose
  | 6 => .reserved6
  | 7 => .reserved7
  | _ => .reserved0

/-- Format WIRE (R60, R61). -/
def decodeWire (bytes : List Byte) : Except DecodeError Instr :=
  match parseFrame bytes with
  | .error e => .error e
  | .ok (len, pay) => .ok (.sendPacket len pay)

/-- Format TCMD (R64). -/
def decodePrim (w : PrimWord) : Except DecodeError Instr :=
  match w.tcmd.toNat with
  | 1 => if w.serial = Config.serial then .ok (.tOpen w.portName) else .error .badSerial
  | 2 =>
    match parseFrame w.bytes with
    | .error e => .error e
    | .ok (len, _) => if sizeOk len then .ok (.tWrite w.bytes) else .error .badPacketSize
  | 3 => .ok .tClose
  | 4 => .ok .tDispose
  | _ => .error .neverIssuedPrimitive

/-- Decoding, total on any word of any interface. -/
def decode (e : Encoded) : Except DecodeError Instr :=
  match e with
  | .host w => .ok (decodeHost w)
  | .wire bytes => decodeWire bytes
  | .prim w => decodePrim w

/-! ## Encoding, from the same tables -/

/-- A host command with no operands: the operand lines are zero. -/
def hostPlain (op : BitVec 3) : HostWord := { op := op, portName := [], len := 0, pay := [] }

/-- A primitive with no arguments. -/
def primPlain (tcmd : BitVec 3) : PrimWord := { tcmd := tcmd, portName := [], serial := Config.serial, bytes := [] }

/-- The words of a well-formed instruction (R62, R60, R64). -/
def encode (i : Instr) : Encoded :=
  match i with
  | .hostOpen n => .host { hostPlain 1 with portName := n }
  | .hostWrite len pay => .host { hostPlain 2 with len := len, pay := pay }
  | .hostClose => .host (hostPlain 3)
  | .hostName => .host (hostPlain 4)
  | .hostDispose => .host (hostPlain 5)
  | .reserved0 => .host (hostPlain 0)
  | .reserved6 => .host (hostPlain 6)
  | .reserved7 => .host (hostPlain 7)
  | .sendPacket len pay => .wire (encodeFrame len pay)
  | .tOpen n => .prim { primPlain 1 with portName := n }
  | .tWrite bytes => .prim { primPlain 2 with bytes := bytes }
  | .tClose => .prim (primPlain 3)
  | .tDispose => .prim (primPlain 4)

/-! ## The opcode table's words -/

/-- The encoded form that a request presents; a reset presents none. -/
def Request.encoded (r : Request) : Option Encoded :=
  match r with
  | .command w => some (.host w)
  | .packet frame => some (.wire frame)
  | .reset => none

/-- The whole frame that a five-byte header calls for, with payload bytes of zero; the trailer is the row's own
constant (R60). -/
def frameOfHeader (b0 b1 lo hi b4 : Byte) : List Byte :=
  [b0, b1, lo, hi, b4] ++ List.replicate (lenOf lo hi).toNat 0 ++ [Config.endByte]

/-- Byte `k` of a number, byte 0 its least significant. -/
def byteAt (w k : Nat) : Byte := BitVec.ofNat 8 (w / 256 ^ k)

/-- The request that stands for an opcode-table word (log 14). A row of at most 8 bits is read as a command-port
word, with operands of zeros: the port name is one zero byte (a port name has at least one), `L` is 0. The 40-bit
row is the header of a frame, byte 0 most significant as the table numbers it, or least significant. -/
def tableRequest (nbits w : Nat) : Option Request :=
  if nbits ≤ 8 then
    if w < 8 then some (.command { op := BitVec.ofNat 3 w, portName := [0], len := 0, pay := [] }) else none
  else if nbits = 40 then
    if byteAt w 4 = Config.startByte then
      some (.packet (frameOfHeader (byteAt w 4) (byteAt w 3) (byteAt w 2) (byteAt w 1) (byteAt w 0)))
    else some (.packet (frameOfHeader (byteAt w 0) (byteAt w 1) (byteAt w 2) (byteAt w 3) (byteAt w 4)))
  else none

/-- The instruction the decoder reads from an opcode-table word. The codes 1 to 4 stand in the table for a host
command and for a transport primitive; the host command is the one the framer takes as input (log 14). -/
def decodeTableWord (nbits w : Nat) : Option Instr :=
  match tableRequest nbits w with
  | none => none
  | some r =>
    match r.encoded with
    | none => none
    | some e =>
      match decode e with
      | .ok i => some i
      | .error _ => none

end Sys2Proof
end

