-- ==== Sys2Proof/WellFormed.lean ====
section
/-! DEFINITION. What an instruction's operands must be (R63): the operand ranges the spec gives, one check each. -/

namespace Sys2Proof

/-- Why an instruction is ill-formed. -/
inductive IllFormed where
  /-- A port name is not empty (R63 a, U4). -/
  | emptyPortName
  /-- A port name has at most NAME_MAX bytes (R63 a, D15). -/
  | portNameTooLong
  /-- A WRITE whose `L` is accepted has `L` payload bytes in place (R63 c, R182). -/
  | payloadMissing
  /-- A SEND_PACKET has exactly `L` payload bytes (R80). -/
  | payloadLength
  /-- A T_WRITE carries one whole frame of a length WRITE lets through (R132). -/
  | notAPacket
deriving DecidableEq, Repr

/-- The check a port-name operand fails, if any. -/
def nameError (n : PortName) : Option IllFormed :=
  if n.isEmpty then some .emptyPortName else if nameShort n then none else some .portNameTooLong

/-- The first check an instruction fails, if any. -/
def Instr.wfError (i : Instr) : Option IllFormed :=
  match i with
  | .hostOpen n => nameError n
  | .hostWrite len pay => if sizeOk len && decide (pay.length < len.toNat) then some .payloadMissing else none
  | .hostClose => none
  | .hostName => none
  | .hostDispose => none
  | .reserved0 => none
  | .reserved6 => none
  | .reserved7 => none
  | .sendPacket len pay => if pay.length = len.toNat then none else some .payloadLength
  | .tOpen n => nameError n
  | .tWrite bytes =>
    match parseFrame bytes with
    | .ok (len, _) => if sizeOk len then none else some .notAPacket
    | .error _ => some .notAPacket
  | .tClose => none
  | .tDispose => none

/-- An instruction whose operands are in range. -/
def Instr.wf (i : Instr) : Bool := i.wfError.isNone

end Sys2Proof
end

