-- ==== Sys2Proof/Machine/State.lean ====
section
/-! DEFINITION. The state of the DMX framer (10_state.md), as plain data, its value after reset (R32), and the
reasons a step can stop. -/

namespace Sys2Proof.Machine

/-- A byte-addressed space (R29): address and byte, addresses strictly rising. An unlisted address holds no value:
nothing has written it, and reading it faults (R33; log 3). -/
abbrev Memory := List Host.Cell

/-- The canonical form of a memory: addresses strictly rising. -/
abbrev Memory.wf (m : Memory) : Prop := (m.map Prod.fst).Pairwise (· < ·)

/-- The three lifecycle states (R21). -/
inductive Lifecycle where
  | unopened
  | opened
  | closed
deriving DecidableEq, Repr

/-- The emitter's phases `S_IDLE` to `S_END` (R85). -/
inductive Phase where
  | idle
  | start
  | cmd
  | lenLo
  | lenHi
  | sub
  | payload
  | fin
deriving DecidableEq, Repr

/-- A transport primitive with its arguments (R130 to R134). -/
inductive Prim where
  | openPort (portName : PortName) (serial : Config.Serial)
  | write (bytes : List Byte)
  | close
  | dispose
deriving DecidableEq, Repr

/-- One primitive issued and the transport's answer to it (R136; log 11). -/
structure Exchange where
  prim : Prim
  answer : Answer
deriving DecidableEq, Repr

/-- The error kinds of R150, with the value each carries (R151). -/
inductive ErrorKind where
  | payloadSize
  | notOpen
  | alreadyOpen
  | transport (e : TErr)
  | illegalOp
deriving DecidableEq, Repr

/-- What an operation returns to the host: its status, and NAME's value (R27, R150). -/
inductive Reply where
  | ok
  | okName (value : Option PortName)
  | error (kind : ErrorKind)
deriving DecidableEq, Repr

/-- Everything the spec gives the machine (10_state.md), its inputs and its outputs. -/
@[ext]
structure State where
  /-- `lc`, the lifecycle register (R21). -/
  lc : BitVec 2
  /-- `released`, the handle-released flag (R22). -/
  released : Bool
  /-- `name_valid` (R23). -/
  nameValid : Bool
  /-- `name`, meaningful only when `name_valid = 1` (R23). -/
  name : PortName
  /-- `ph`, the emitter's phase (R26, R85). -/
  ph : Phase
  /-- `len_r`, the emitter's latched length (R85). -/
  lenR : BitVec 16
  /-- `idx`, the emitter's payload index (R85). -/
  idx : BitVec 16
  /-- `wp`, the emitter's packet write pointer (R85). -/
  wp : BitVec 17
  /-- The operand register that holds `L` for the duration of WRITE or ENCODE (R25). -/
  opLen : Len
  /-- The operand register that holds the port name for the duration of OPEN (R25). -/
  opName : PortName
  /-- `PAY`, the payload space (R29 a). -/
  pay : Memory
  /-- `PKT`, the packet space (R29 b). -/
  pkt : Memory
  /-- The transport trace, oldest first (R11), with the answers. -/
  trace : List Exchange
  /-- Output: the status port after the last operation (R27, R150; log 10). -/
  reply : Option Reply
  /-- Input: what the host will present, next first (R48; log 1). -/
  pending : List Request
  /-- Input: the next samples of the transport's `isOpen` (R135; log 5). -/
  tIsOpenIn : List Bool
  /-- Input: the transport's next answers; `none` is a primitive it never answers (R136, U13; log 4). -/
  tAnswers : List (Option Answer)
  /-- Input: the transport's `portName`, which the framer does not read (R135; log 22). -/
  tPortName : Option PortName
  /-- The world outside: the level TC1 gives the transport's `isOpen` where the trace begins (R137, R181; log 26). A
  handle that an earlier life left open is open there. No operation reads it. -/
  tLineBefore : Bool
  /-- The model's own: how many free values have been read (log 6). -/
  draws : Nat
deriving DecidableEq, Repr

/-- The reasons the machine can stop. -/
inductive Fault where
  /-- A meaning that reads `lc` found 3 there, which no rule writes (U11): OPEN, WRITE, CLOSE. Safe (log 17). -/
  | illegalLifecycle
  /-- A byte of PAY or PKT that nothing has written was read (R33, U12): ENCODE, T_WRITE. Safe (log 3). -/
  | unspecifiedRead
  /-- The emitter was started while it was not idle (R88 a): WRITE, SEND_PACKET. Safe (log 18). -/
  | emitterBusy
  /-- A primitive is never answered, so the operation never returns (R186, U13): stuck for good. Raised by every
  operation that issues a primitive. Safe (log 4). -/
  | transportNeverAnswers
deriving DecidableEq, Repr

/-- The reasons the model gives no meaning. -/
inductive Refusal where
  /-- The instruction has no meaning yet. Raised by exec's arms only. Safe. -/
  | notModelled (mnemonic : String)
  /-- OPEN or T_OPEN with a port name of no bytes, outside the contract (R63 a, U4). Safe (log 8). -/
  | emptyPortName
  /-- OPEN or T_OPEN with more than NAME_MAX bytes, outside the operand's range (R101). Safe (log 8). -/
  | portNameTooLong
  /-- Bytes that are no frame were presented to the encoder. Raised by step. Safe (log 13). -/
  | undecodable (why : DecodeError)
deriving DecidableEq, Repr

/-- The machine right after reset (R32, R180, R181). The values of `name`, `lenR`, `idx`, `wp`, `opLen`, `opName`
are the model's (DESIGN CHOICE, unsafe: log 2), as are the inputs (logs 1, 4, 5, 22, 26) and `draws` (log 6). -/
def State.reset : State where
  lc := 0
  released := false
  nameValid := false
  name := []
  ph := .idle
  lenR := 0
  idx := 0
  wp := 0
  opLen := 0
  opName := []
  pay := []
  pkt := []
  trace := []
  reply := none
  pending := []
  tIsOpenIn := []
  tAnswers := []
  tPortName := none
  tLineBefore := false
  draws := 0

end Sys2Proof.Machine
end

