-- ==== Sys2Proof/Machine/Operands.lean ====
section
/-! DEFINITION. Operands (R25, R63): the registers that hold them while an operation runs, the sampling of the
transport's `isOpen` (R135), and the bytes of the two spaces (R29). -/

namespace Sys2Proof.Machine

/-- The outcome of running an operation. -/
abbrev Out := Host.Outcome State Fault Refusal

/-- A read of one byte (R43): the byte, or none where nothing has been written. -/
def Memory.read (m : Memory) (a : Nat) : Option Byte :=
  match m with
  | [] => none
  | (k, v) :: rest => if k = a then some v else Memory.read rest a

/-- A write of one byte (R43), keeping the addresses rising. -/
def Memory.write (m : Memory) (a : Nat) (b : Byte) : Memory :=
  match m with
  | [] => [(a, b)]
  | (k, v) :: rest =>
    if a < k then (a, b) :: (k, v) :: rest
    else if a = k then (a, b) :: rest
    else (k, v) :: Memory.write rest a b

/-- The bytes of a sequence at rising addresses from `base`. -/
def Memory.ofBytes (base : Nat) (bytes : List Byte) : Memory :=
  match bytes with
  | [] => []
  | b :: bs => (base, b) :: Memory.ofBytes (base + 1) bs

/-- `n` bytes from `base`, in address order, or none where one of them has not been written. -/
def Memory.readRange (m : Memory) (base n : Nat) : Option (List Byte) :=
  match n with
  | 0 => some []
  | n + 1 =>
    match m.read base, Memory.readRange m (base + 1) n with
    | some b, some bs => some (b :: bs)
    | _, _ => none

/-- OPEN takes its operand (R63 a). -/
def latchName (n : PortName) (s : State) : State := { s with opName := n }

/-- WRITE and ENCODE take their operands: `L`, and the payload space as the host has filled it (R63 b, c). -/
def latchPayload (len : Len) (pay : List Byte) (s : State) : State :=
  { s with opLen := len, pay := Memory.ofBytes 0 pay }

/-- The borrow of the payload ends with the operation (R25, R184): PAY holds nothing any more (log 16). -/
def dropPayload (s : State) : State := { s with pay := [] }

/-- The packet is discarded after transmission (R51, R29): PKT holds nothing any more (log 16). -/
def dropPacket (s : State) : State := { s with pkt := [] }

/-- `t_is_open`, sampled once where a rule names it (R10, R135): the next sample given, else a free value
(log 5). -/
def sampleIsOpen (s : State) : Bool :=
  match s.tIsOpenIn with
  | [] => Config.freeIsOpen s.draws
  | b :: _ => b

/-- The inputs after one sample of `t_is_open`. -/
def afterSample (s : State) : State :=
  match s.tIsOpenIn with
  | [] => { s with draws := s.draws + 1 }
  | _ :: rest => { s with tIsOpenIn := rest }

/-- The lifecycle state that `lc` encodes (R21): 0, 1, 2; 3 encodes none. -/
def lifecycle? (lc : BitVec 2) : Option Lifecycle :=
  match lc.toNat with
  | 0 => some .unopened
  | 1 => some .opened
  | 2 => some .closed
  | _ => none

/-- The encoding of a lifecycle state (R21). -/
def Lifecycle.code (l : Lifecycle) : BitVec 2 :=
  match l with
  | .unopened => 0
  | .opened => 1
  | .closed => 2

/-- The encoding of an emitter phase (R85). -/
def Phase.code (p : Phase) : BitVec 3 :=
  match p with
  | .idle => 0
  | .start => 1
  | .cmd => 2
  | .lenLo => 3
  | .lenHi => 4
  | .sub => 5
  | .payload => 6
  | .fin => 7

end Sys2Proof.Machine
end

