-- ==== Sys2Proof/Machine/Flags.lean ====
section
/-! DEFINITION. The block has no flags (R27); what it computes in their place are the status codes of its replies
(R150) and the tests that choose among them (R101, R102). -/

namespace Sys2Proof.Machine

/-- The status code of an error kind (R150). -/
def ErrorKind.code (k : ErrorKind) : BitVec 3 :=
  match k with
  | .payloadSize => 1
  | .notOpen => 2
  | .alreadyOpen => 3
  | .transport _ => 4
  | .illegalOp => 7

/-- `status[2:0]` of a reply (R150). -/
def Reply.code (r : Reply) : BitVec 3 :=
  match r with
  | .ok => 0
  | .okName _ => 0
  | .error k => k.code

/-- OPEN's lifecycle tests (R101): whether OPEN goes on to T_OPEN, for either reading of REOPEN_AFTER_CLOSE. -/
def mayOpen (reopen released : Bool) (l : Lifecycle) : Bool :=
  match l with
  | .unopened => true
  | .opened => false
  | .closed => !released && reopen

/-- WRITE's state test (R102 step 2): the framer's lifecycle and the transport's `isOpen` must both say open. -/
def mayWrite (isOpen : Bool) (l : Lifecycle) : Bool :=
  match l with
  | .unopened => false
  | .opened => isOpen
  | .closed => false

/-- CLOSE's lifecycle write (R103): `OPEN` becomes `CLOSED`, the others stay. -/
def closedFrom (l : Lifecycle) : Lifecycle :=
  match l with
  | .unopened => .unopened
  | .opened => .closed
  | .closed => .closed

/-- The first failure of DISPOSE's two primitives (R105). -/
def firstFailure (r1 r2 : Answer) : Answer :=
  match r1 with
  | .fail e => .fail e
  | .ok => r2

end Sys2Proof.Machine
end

