-- ==== Sys2Proof/Machine/Ops.lean ====
section
/-! DEFINITION. The operations the meanings share: ending an operation with an error kind (`raise`) or with OK
(R10, R154, R155), issuing a transport primitive and waiting for its answer (R10, R136, R138). -/

namespace Sys2Proof.Machine

/-- An operation ends and its reply goes to the host (R10, R154). -/
def endWith (r : Reply) (s : State) : State := { s with reply := some r }

/-- `raise K`: the block's trap entry (R154). No state is saved, no mode changes, no vector is read: the operation
ends with the error kind as its status, and the registers are as the operation left them. -/
def raise (k : ErrorKind) (s : State) : State := endWith (.error k) s

/-- `return OK` (R10). There is no return from an error: after any failure the framer is ready at once (R155). -/
def returnOk (s : State) : State := endWith .ok s

/-- `return OK(v)` of NAME (R10). -/
def returnName (v : Option PortName) (s : State) : State := endWith (.okName v) s

/-- An operation ends with the answer of a primitive: OK, or TransportError(`e`) with `e` unchanged (R136). -/
def report (a : Answer) (s : State) : State :=
  match a with
  | .ok => returnOk s
  | .fail e => raise (.transport e) s

/-- The transport's answer to the next primitive: the next one given (`none`: it never comes), else a free value
(R136; log 4). -/
def nextAnswer (s : State) : Option Answer :=
  match s.tAnswers with
  | [] => some (Config.freeAnswer s.draws)
  | a :: _ => a

/-- The inputs after one answer. -/
def afterAnswer (s : State) : State :=
  match s.tAnswers with
  | [] => { s with draws := s.draws + 1 }
  | _ :: rest => { s with tAnswers := rest }

/-- The state once a primitive has been issued and answered: the trace has gained it (R11). -/
def answered (p : Prim) (a : Answer) (s : State) : State :=
  { afterAnswer s with trace := s.trace ++ [{ prim := p, answer := a }] }

/-- Issue a primitive, wait for its answer, and go on with it (R10, R138). A primitive that is never answered
leaves the framer stuck (R186). -/
def ask (p : Prim) (s : State) (go : Answer → State → Out) : Out :=
  match nextAnswer s with
  | none => .fault .transportNeverAnswers
  | some a => go a (answered p a s)

/-- A primitive on its own: issued and answered, no register of the framer written (R131 to R134). -/
def primitive (p : Prim) (s : State) : Out := ask p s fun _ t => .next t

/-- Run an operation and go on from its next state. -/
def andThen (o : Out) (go : State → Out) : Out :=
  match o with
  | .next s => go s
  | .fault f => .fault f
  | .refused r => .refused r

/-- A port-name operand outside its range has no meaning (R63 a, U4, D15; log 8). -/
def withName (n : PortName) (go : Out) : Out :=
  if n.isEmpty then .refused .emptyPortName
  else if nameShort n then go
  else .refused .portNameTooLong

/-- A reserved command code (R107): ILLEGAL_OP, no register, no primitive. -/
def illegalOp (s : State) : Out := .next (raise .illegalOp s)

/-- The level of the transport's `isOpen` under TC1 (R137), after one more exchange: 1 from a T_OPEN answered `ok`
until the next T_CLOSE or T_DISPOSE. -/
def lineAfter (level : Bool) (x : Exchange) : Bool :=
  match x.prim with
  | .openPort _ _ => level || decide (x.answer = .ok)
  | .write _ => level
  | .close => false
  | .dispose => false

/-- The level of the transport's `isOpen` under TC1 at this state (R137): the trace's exchanges, from the level where
the trace begins. -/
def lineOpen (s : State) : Bool := s.trace.foldl lineAfter s.tLineBefore

/-- What a reset does to a framer between two operations (R180, R181): every register takes its value after reset,
the trace is empty, no primitive is issued; the world outside is as it was (log 24), and a port that was left open is
still open under TC1, because no T_CLOSE and no T_DISPOSE was issued (log 26). -/
def resetFramer (s : State) : State :=
  { State.reset with
    pending := s.pending, tIsOpenIn := s.tIsOpenIn, tAnswers := s.tAnswers, tPortName := s.tPortName,
    tLineBefore := lineOpen s, draws := s.draws }

end Sys2Proof.Machine
end

