-- ==== Sys2Proof/Machine/Encoder.lean ====
section
/-! DEFINITION. The PacketEncoder (40_packet_encoder.md): the byte emitter of R85, which builds the frame of R80 in
the packet space, and the meaning of SEND_PACKET. -/

namespace Sys2Proof.Machine

/-- The emitter's start (R85). The packet is constructed fresh (R51): PKT holds nothing of an earlier one. -/
def emitStart (s : State) : State :=
  { s with lenR := s.opLen, idx := 0, wp := 0, ph := .start, pkt := [] }

/-- `pkt[wp] <- b; wp <- wp + 1; ph <- p` (R85). -/
def putByte (b : Byte) (p : Phase) (s : State) : State :=
  { s with pkt := s.pkt.write s.wp.toNat b, wp := s.wp + 1, ph := p }

/-- One emit step (R85); there is none while the emitter is idle. -/
def emitStep (s : State) : Out :=
  match s.ph with
  | .idle => .next s
  | .start => .next (putByte Config.startByte .cmd s)
  | .cmd => .next (putByte Config.cmdSend .lenLo s)
  | .lenLo => .next (putByte (Sys2Proof.lenLo s.lenR) .lenHi s)
  | .lenHi => .next (putByte (Sys2Proof.lenHi s.lenR) .sub s)
  | .sub => .next (putByte Config.subCmd (if s.lenR = 0 then .fin else .payload) s)
  | .payload =>
    match s.pay.read s.idx.toNat with
    | none => .fault .unspecifiedRead
    | some b =>
      if s.idx = s.lenR - 1 then .next (putByte b .fin s)
      else .next (putByte b .payload { s with idx := s.idx + 1 })
  | .fin => .next (putByte Config.endByte .idle s)

/-- `k` emit steps. -/
def emitRun (k : Nat) (s : State) : Out :=
  match k with
  | 0 => .next s
  | k + 1 => andThen (emitStep s) (emitRun k)

/-- Build the packet of the latched payload (R85, R86): start the emitter and run it for its `L + 6` steps. It
cannot be started while it is not idle (R88 a). -/
def buildPacket (s : State) : Out :=
  if s.ph = .idle then emitRun (s.opLen.toNat + Config.overhead) (emitStart s) else .fault .emitterBusy

/-- The complete packet `pkt[0 : wp]` (R85). -/
def packetBytes (s : State) : Option (List Byte) := s.pkt.readRange 0 s.wp.toNat

/-- SEND_PACKET: ENCODE (R80, R81), on its own. Its result is the packet in PKT; no register of the framer's four
and no primitive is touched, and nothing is checked (log 13). -/
def execSendPacket (len : Len) (pay : List Byte) (s : State) : Out :=
  andThen (buildPacket (latchPayload len pay s)) fun t => .next (dropPayload t)

end Sys2Proof.Machine
end

