-- ==== Sys2Proof/Machine/Writer.lean ====
section
/-! DEFINITION. The DmxWriter (41_dmx_writer.md): OPEN, WRITE, CLOSE, NAME, DISPOSE and the reserved command
codes. -/

namespace Sys2Proof.Machine

/-! ## OPEN (R101) -/

/-- OPEN after T_OPEN's answer (R101): `ok` writes `lc`, `name_valid`, `name`; a failure writes nothing (D8). -/
def finishOpen (a : Answer) (s : State) : State :=
  match a with
  | .ok => returnOk { s with lc := Lifecycle.opened.code, nameValid := true, name := s.opName }
  | .fail e => raise (.transport e) s

/-- OPEN on the latched operand, for either value of REOPEN_AFTER_CLOSE (R101). -/
def openWith (reopen : Bool) (s : State) : Out :=
  withName s.opName <|
    match lifecycle? s.lc with
    | none => .fault .illegalLifecycle
    | some l =>
      if mayOpen reopen s.released l then
        ask (.openPort s.opName Config.serial) s fun a t => .next (finishOpen a t)
      else .next (raise .alreadyOpen s)

/-- OPEN (R101). -/
def execHostOpen (n : PortName) (s : State) : Out := openWith Config.reopenAfterClose (latchName n s)

/-! ## WRITE (R102) -/

/-- Step 4 of WRITE (R102): transmit the packet in one T_WRITE and report the answer; the packet and the payload are
discarded. -/
def transmit (s : State) : Out :=
  match packetBytes s with
  | none => .fault .unspecifiedRead
  | some bytes => ask (.write bytes) s fun a t => .next (report a (dropPacket (dropPayload t)))

/-- Steps 2 to 4 of WRITE (R102): the state test on one sample of `t_is_open`, then encode, then transmit. -/
def writeSized (s : State) : Out :=
  match lifecycle? s.lc with
  | none => .fault .illegalLifecycle
  | some l =>
    if mayWrite (sampleIsOpen s) l then andThen (buildPacket (afterSample s)) transmit
    else .next (raise .notOpen (dropPayload (afterSample s)))

/-- WRITE on the latched operands (R102): the size check comes before the state check. -/
def writeLatched (s : State) : Out :=
  if sizeOk s.opLen then writeSized s else .next (raise .payloadSize (dropPayload s))

/-- WRITE (R102). -/
def execHostWrite (len : Len) (pay : List Byte) (s : State) : Out := writeLatched (latchPayload len pay s)

/-! ## CLOSE (R103) -/

/-- CLOSE (R103): the lifecycle write comes before the report, whatever T_CLOSE answers (D10). -/
def execHostClose (s : State) : Out :=
  if s.released then .next (returnOk s)
  else
    match lifecycle? s.lc with
    | none => .fault .illegalLifecycle
    | some l => ask .close s fun a t => .next (report a { t with lc := (closedFrom l).code })

/-! ## NAME (R104) -/

/-- NAME (R104): served from the framer's own register (D25). -/
def execHostName (s : State) : Out :=
  .next (returnName (if s.nameValid then some s.name else none) s)

/-! ## DISPOSE (R105) -/

/-- DISPOSE (R105): T_CLOSE, then T_DISPOSE whatever T_CLOSE answered, then both registers, then the first
failure (D12). -/
def execHostDispose (s : State) : Out :=
  if s.released then .next (returnOk s)
  else
    ask .close s fun r1 s1 =>
      ask .dispose s1 fun r2 s2 =>
        .next (report (firstFailure r1 r2) { s2 with lc := Lifecycle.closed.code, released := true })

/-! ## Reserved command codes (R107) -/

/-- Host command code 0 (R107). -/
def execReserved0 (s : State) : Out := illegalOp s

/-- Host command code 6 (R107). -/
def execReserved6 (s : State) : Out := illegalOp s

/-- Host command code 7 (R107). -/
def execReserved7 (s : State) : Out := illegalOp s

end Sys2Proof.Machine
end

