-- ==== Sys2Proof/Machine/Transport.lean ====
section
/-! DEFINITION. The transport primitives (42_transport_interface.md), each on its own: what the framer puts on the
primitive port, and the wait for the answer. OPEN, WRITE, CLOSE and DISPOSE issue them through the same operation
`ask`; nothing presents one to the framer (log 12). -/

namespace Sys2Proof.Machine

/-- T_OPEN (R131): the port name unchanged, and the four serial constants. -/
def execTOpen (n : PortName) (s : State) : Out := withName n (primitive (.openPort n Config.serial) s)

/-- T_WRITE (R132): one byte sequence, the complete packet. -/
def execTWrite (bytes : List Byte) (s : State) : Out := primitive (.write bytes) s

/-- T_CLOSE (R133). -/
def execTClose (s : State) : Out := primitive .close s

/-- T_DISPOSE (R134). -/
def execTDispose (s : State) : Out := primitive .dispose s

end Sys2Proof.Machine
end

