-- ==== Sys2Proof/Machine/Dispatch.lean ====
section
/-! DEFINITION. One arm per row of the opcode table. -/

namespace Sys2Proof.Machine

def exec (i : Instr) (s : State) : Host.Outcome State Fault Refusal :=
  match i with
  | .hostOpen n => Sys2Proof.Machine.execHostOpen n s
  | .hostWrite len pay => Sys2Proof.Machine.execHostWrite len pay s
  | .hostClose => Sys2Proof.Machine.execHostClose s
  | .hostName => Sys2Proof.Machine.execHostName s
  | .hostDispose => Sys2Proof.Machine.execHostDispose s
  | .reserved0 => Sys2Proof.Machine.execReserved0 s
  | .reserved6 => Sys2Proof.Machine.execReserved6 s
  | .reserved7 => Sys2Proof.Machine.execReserved7 s
  | .sendPacket len pay => Sys2Proof.Machine.execSendPacket len pay s
  | .tOpen n => Sys2Proof.Machine.execTOpen n s
  | .tWrite bytes => Sys2Proof.Machine.execTWrite bytes s
  | .tClose => Sys2Proof.Machine.execTClose s
  | .tDispose => Sys2Proof.Machine.execTDispose s

end Sys2Proof.Machine
end

