-- ==== Sys2Proof/Machine/Step.lean ====
section
/-! DEFINITION. One step: the next request of the world outside, whole (R6). -/

namespace Sys2Proof.Machine

/-- One step (R6, R48): take the next request, decode it, run it to its end. With none presented the framer waits
(R180). A reset is applied between operations only (U9). -/
def step (s : State) : Host.Outcome State Fault Refusal :=
  match s.pending with
  | [] => .next s
  | r :: rest =>
    match r.encoded with
    | none => .next (resetFramer { s with pending := rest })
    | some e =>
      match decode e with
      | .error why => .refused (.undecodable why)
      | .ok i => exec i { s with pending := rest }

/-- The state with an opcode-table word presented as the next request (logs 14, 15). -/
def State.withFetchWord (s : State) (nbits w : Nat) : State :=
  match tableRequest nbits w with
  | none => s
  | some r => { s with pending := r :: s.pending }

end Sys2Proof.Machine
end

