-- ==== Sys2Proof/Safety.lean ====
section
/-! DEFINITION. What holds of a framer between two operations (R31, R106, R134), and the named assumptions about
the transport that a claim may take (R137). -/

namespace Sys2Proof.Machine

/-- TC1 at this state (R137): the next sample of `t_is_open` is 1 exactly where a T_OPEN was answered `ok` and no
T_CLOSE or T_DISPOSE has followed, in this life or, with no primitive since, in an earlier one. -/
def TC1 (s : State) : Prop := sampleIsOpen s = lineOpen s

/-- TC5 at this state (R137): no primitive will go without an answer. -/
def TC5 (s : State) : Prop := none ∉ s.tAnswers

/-- A primitive as the framer may issue it (R131, R132): T_OPEN with the fixed serial parameters, T_WRITE with one
whole frame of an accepted length. -/
def Prim.wf (p : Prim) : Bool :=
  match p with
  | .openPort n serial => nameFits n && decide (serial = Config.serial)
  | .write bytes => (Instr.tWrite bytes).wf
  | .close => true
  | .dispose => true

/-- How many T_DISPOSE a trace holds. -/
def disposals (trace : List Exchange) : Nat := trace.countP fun x => decide (x.prim = .dispose)

/-- What holds between operations. -/
structure FramerInv (s : State) : Prop where
  /-- I-a (R31): `lc` is 0, 1 or 2. -/
  lcLegal : (lifecycle? s.lc).isSome = true
  /-- I-b and I-d (R31): a released framer is Closed. -/
  releasedClosed : s.released = true → s.lc = Lifecycle.closed.code
  /-- I-c (R31): an open framer has a name. -/
  openNamed : s.lc = Lifecycle.opened.code → s.nameValid = true
  /-- R106: in state U there is no name. -/
  unopenedUnnamed : s.lc = Lifecycle.unopened.code → s.nameValid = false
  /-- R106: in state C there is a name, because C is entered only from O. -/
  closedNamed : s.lc = Lifecycle.closed.code → s.released = false → s.nameValid = true
  /-- R23: a valid name has 1 to NAME_MAX bytes. -/
  nameRange : s.nameValid = true → nameFits s.name = true
  /-- R88 e: the emitter is idle between operations. -/
  emitterIdle : s.ph = .idle
  /-- The two spaces keep their canonical form. -/
  payWf : s.pay.wf
  pktWf : s.pkt.wf
  /-- R131, R132: only well-formed primitives have been issued. -/
  primsWf : ∀ x ∈ s.trace, x.prim.wf = true
  /-- R134: T_DISPOSE has been issued exactly when the handle is released, and then once. -/
  disposedOnce : disposals s.trace = s.released.toNat
  /-- While the lifecycle is Open, TC1 gives the port open (R137). -/
  openLine : s.lc = Lifecycle.opened.code → lineOpen s = true
  /-- While it is Closed, TC1 gives the port closed; while Unopened, an earlier life may have left it open (R181). -/
  closedLine : s.lc = Lifecycle.closed.code → lineOpen s = false

end Sys2Proof.Machine
end

