-- ==== Sys2Proof/Certificates/Slice0/Obligations.lean ====
section
/-! DEFINITION. The statements about the DMX framer, for the provers. In them `lc` is written by its code of R21:
0 is UNOPENED, 1 is OPEN, 2 is CLOSED. The transport's next answer is any value: a statement about the answer `a` of
`nextAnswer s = some a` holds for each. -/

namespace Sys2Proof.Claims

open Sys2Proof.Machine

/-- The serial parameters, written out (R7, R131). -/
def serial8N1 : Config.Serial := { baud := 115200, parity := .parityNone, dataBits := 8, stopBits := .one }

/-- The frame of a payload, written out from the wire format (R60) with the arithmetic of R65. -/
def frame (len : Len) (pay : List Byte) : List Byte :=
  [0x7E, 0x06, BitVec.ofNat 8 (len.toNat % 256), BitVec.ofNat 8 (len.toNat / 256), 0x00] ++ pay ++ [0xE7]

/-- The status an operation returns for the answer of its primitive: OK, or TransportError(`e`), `e` unchanged. -/
def replyOf (a : Answer) : Reply :=
  match a with
  | .ok => .ok
  | .fail e => .error (.transport e)

/-- The status DISPOSE returns for the answers of its two primitives: T_CLOSE's failure comes first (R105). -/
def disposeReply (r1 r2 : Answer) : Reply :=
  match r1 with
  | .fail e => .error (.transport e)
  | .ok => replyOf r2

/-- The eight codes of the command port (R62). -/
def isHostOp (i : Instr) : Bool :=
  match i with
  | .hostOpen _ => true
  | .hostWrite _ _ => true
  | .hostClose => true
  | .hostName => true
  | .hostDispose => true
  | .reserved0 => true
  | .reserved6 => true
  | .reserved7 => true
  | .sendPacket _ _ => false
  | .tOpen _ => false
  | .tWrite _ => false
  | .tClose => false
  | .tDispose => false

/-- Is it a WRITE. -/
def isWrite (i : Instr) : Bool :=
  match i with
  | .hostWrite _ _ => true
  | _ => false

/-- The framer's four registers (R20) are unchanged. -/
def SameRegisters (s t : State) : Prop :=
  t.lc = s.lc ∧ t.released = s.released ∧ t.nameValid = s.nameValid ∧ t.name = s.name

/-- The emitter's registers are unchanged. -/
def SameEmitter (s t : State) : Prop := t.ph = s.ph ∧ t.lenR = s.lenR ∧ t.idx = s.idx ∧ t.wp = s.wp

/-- Every byte of both spaces reads as before. -/
def SameBytes (s t : State) : Prop := ∀ a, t.pay.read a = s.pay.read a ∧ t.pkt.read a = s.pkt.read a

/-- The outcome with a change made to its next state, if it has one. -/
def mapNext (f : State → State) (o : Out) : Out :=
  match o with
  | .next s => .next (f s)
  | .fault e => .fault e
  | .refused r => .refused r

/-- OPEN is turned away at these registers (R101), for this machine's REOPEN_AFTER_CLOSE. -/
def openTurnedAway (s : State) : Prop :=
  s.lc = 1 ∨ (s.lc = 2 ∧ (s.released = true ∨ Config.reopenAfterClose = false))

/-- The request at the head of the queue is not a reset. -/
def noReset (s : State) : Prop := s.pending.head? ≠ some .reset

end Sys2Proof.Claims

open Sys2Proof Sys2Proof.Machine Sys2Proof.Claims

/-! ## Encodings (30_encoding.md) -/

/-- A few words written out from the code tables of R62, R64 and the layout of R60 decode to what they stand for. The
codes are the spec's decisions D2 and D16. -/
def Obligations.WrittenOutWordsDecode : Prop :=
  decode (.host { op := 0b001#3, portName := [0x43, 0x4F, 0x4D, 0x33], len := 0, pay := [] })
      = .ok (.hostOpen [0x43, 0x4F, 0x4D, 0x33]) ∧
  decode (.host { op := 0b010#3, portName := [], len := 0x0002, pay := [0xAA, 0x7E] })
      = .ok (.hostWrite 2 [0xAA, 0x7E]) ∧
  decode (.host { op := 0b011#3, portName := [], len := 0, pay := [] }) = .ok .hostClose ∧
  decode (.host { op := 0b110#3, portName := [], len := 0, pay := [] }) = .ok .reserved6 ∧
  decode (.wire [0x7E, 0x06, 0x02, 0x00, 0x00, 0xAA, 0x7E, 0xE7]) = .ok (.sendPacket 2 [0xAA, 0x7E]) ∧
  decode (.prim { tcmd := 0b001#3, portName := [0x41], serial := serial8N1, bytes := [] }) = .ok (.tOpen [0x41]) ∧
  decode (.prim { tcmd := 0b100#3, portName := [], serial := serial8N1, bytes := [] }) = .ok .tDispose

/-- Decoding the encoding of any well-formed instruction gives it back, with every operand. -/
def Obligations.DecodeOfEncodeIsIdentity : Prop :=
  ∀ i : Instr, i.wf = true → decode (encode i) = .ok i

/-- A receiver accepts exactly the frames of R60 and reads each as its own length and payload (R61): the length field
counts the payload bytes, and END stands at offset `5 + L`. -/
def Obligations.WireDecodesExactlyTheFrames : Prop :=
  ∀ (bytes : List Byte) (i : Instr),
    decode (.wire bytes) = .ok i ↔
      ∃ (len : Len) (pay : List Byte), pay.length = len.toNat ∧ i = .sendPacket len pay ∧ bytes = frame len pay

/-- Every command-port word is one of the eight codes, and its own code (R62, R107; D2); the primitive codes 0, 5, 6
and 7 are no instruction (R67 e; D16). -/
def Obligations.EveryCommandCodeDecodes : Prop :=
  (∀ w : HostWord, ∃ i, decode (.host w) = .ok i ∧ isHostOp i = true ∧
    ∃ w' : HostWord, encode i = .host w' ∧ w'.op = w.op) ∧
  ∀ w : PrimWord, w.tcmd = 0 ∨ w.tcmd = 5 ∨ w.tcmd = 6 ∨ w.tcmd = 7 →
    decode (.prim w) = .error .neverIssuedPrimitive

/-- The status codes of R150 (the spec's decision D3). -/
def Obligations.StatusCodesAreTheTable : Prop :=
  Reply.ok.code = 0 ∧ (∀ v, (Reply.okName v).code = 0) ∧ (Reply.error .payloadSize).code = 1 ∧
  (Reply.error .notOpen).code = 2 ∧ (Reply.error .alreadyOpen).code = 3 ∧
  (∀ e, (Reply.error (.transport e)).code = 4) ∧ (Reply.error .illegalOp).code = 7

/-! ## The packet (40_packet_encoder.md, 20_memory.md) -/

/-- R80. ENCODE answers a next state for every `L` and payload of `L` bytes, and PKT then holds, offset by offset, the
frame and nothing else, `L + 6` bytes of it. It reads none of the framer's registers, writes none, writes no flag,
raises nothing and issues nothing. -/
def Obligations.EncodeBuildsTheFrame : Prop :=
  ∀ (s : State) (len : Len) (pay : List Byte), s.ph = .idle → pay.length = len.toNat →
    ∃ t, exec (.sendPacket len pay) s = .next t ∧
      (∀ a, t.pkt.read a = (frame len pay)[a]?) ∧ (frame len pay).length = len.toNat + 6 ∧
      SameRegisters s t ∧ t.trace = s.trace ∧ t.reply = s.reply ∧ t.ph = .idle ∧ t.opName = s.opName ∧
      t.pending = s.pending ∧ t.tIsOpenIn = s.tIsOpenIn ∧ t.tAnswers = s.tAnswers ∧ t.draws = s.draws ∧
      t.tPortName = s.tPortName ∧ t.tLineBefore = s.tLineBefore

/-- ENCODE is total on its domain whatever the length (no bound is checked), and what it builds depends on nothing but
its operands (R81): from any two states, whatever their lifecycle, registers, spaces and earlier packets, the packet is
the same, and no primitive is issued. That PAY holds no byte afterwards is the model's choice (log 16). -/
def Obligations.EncodeIsPure : Prop :=
  ∀ (s s' : State) (len : Len) (pay : List Byte), s.ph = .idle → s'.ph = .idle → pay.length = len.toNat →
    ∃ t t', exec (.sendPacket len pay) s = .next t ∧ exec (.sendPacket len pay) s' = .next t' ∧
      t.pkt = t'.pkt ∧ t.trace = s.trace ∧ t'.trace = s'.trace ∧ SameRegisters s t ∧ t.reply = s.reply ∧
      ∀ a, t.pay.read a = none

/-- R40. The length field is little-endian, and its two examples. -/
def Obligations.LengthFieldIsLittleEndian : Prop :=
  (∀ (len : Len) (pay : List Byte),
    (encodeFrame len pay)[2]? = some (len.extractLsb' 0 8) ∧ (encodeFrame len pay)[3]? = some (len.extractLsb' 8 8)) ∧
  (∀ pay, (encodeFrame 300 pay)[2]? = some 44 ∧ (encodeFrame 300 pay)[3]? = some 1) ∧
  ∀ pay, (encodeFrame 200 pay)[2]? = some 200 ∧ (encodeFrame 200 pay)[3]? = some 0

/-- R65. `len_lo = L mod 256` and `len_hi = L / 256`; the field equals the payload's length; every other control byte
is a constant and every payload byte is copied. -/
def Obligations.OnlyTheLengthIsAssembled : Prop :=
  ∀ (len : Len) (pay : List Byte), pay.length = len.toNat →
    (lenLo len).toNat = len.toNat % 256 ∧ (lenHi len).toNat = len.toNat / 256 ∧
    (lenLo len).toNat + 256 * (lenHi len).toNat = pay.length ∧
    (encodeFrame len pay)[0]? = some 0x7E ∧ (encodeFrame len pay)[1]? = some 0x06 ∧
    (encodeFrame len pay)[2]? = some (lenLo len) ∧ (encodeFrame len pay)[3]? = some (lenHi len) ∧
    (encodeFrame len pay)[4]? = some 0x00 ∧
    (∀ i, i < len.toNat → (encodeFrame len pay)[5 + i]? = pay[i]?) ∧
    (encodeFrame len pay)[5 + len.toNat]? = some 0xE7 ∧ (encodeFrame len pay)[6 + len.toNat]? = none

/-- R84. For every length, not only 24 to 512: the frame has `L + 6` bytes, its header and footer are the table's, its
bytes `[5, 5+L)` are the payload, the payload is recovered from it, and ENCODE is injective. -/
def Obligations.FrameContainsItsPayload : Prop :=
  (∀ (len : Len) (pay : List Byte), pay.length = len.toNat →
    (encodeFrame len pay).length = len.toNat + 6 ∧
    encodeFrame len pay = frame len pay ∧
    ((encodeFrame len pay).drop 5).take len.toNat = pay ∧
    ∃ b2 b3 : Byte, (encodeFrame len pay)[2]? = some b2 ∧ (encodeFrame len pay)[3]? = some b3 ∧
      len.toNat = 256 * b3.toNat + b2.toNat ∧
      ((encodeFrame len pay).drop 5).take (256 * b3.toNat + b2.toNat) = pay) ∧
  ∀ (len len' : Len) (pay pay' : List Byte), pay.length = len.toNat → pay'.length = len'.toNat →
    encodeFrame len pay = encodeFrame len' pay' → len = len' ∧ pay = pay'

/-- R66. On the WRITE path `len_hi` is 0, 1 or 2 and no marker, and `len_lo` is START for 126 and 382, END for 231 and
487, and no marker otherwise; offsets 1 and 4 hold no marker, offset 0 and the last always do; the frame is emitted as
R60 says for every length, and its payload bytes are copied unescaped. -/
def Obligations.MarkersInControlPositions : Prop :=
  ∀ (len : Len) (pay : List Byte), 24 ≤ len.toNat → len.toNat ≤ 512 → pay.length = len.toNat →
    encodeFrame len pay = [0x7E, 0x06, lenLo len, lenHi len, 0x00] ++ pay ++ [0xE7] ∧
    (lenHi len = 0 ∨ lenHi len = 1 ∨ lenHi len = 2) ∧ lenHi len ≠ 0x7E ∧ lenHi len ≠ 0xE7 ∧
    (lenLo len = 0x7E ↔ len = 126 ∨ len = 382) ∧ (lenLo len = 0xE7 ↔ len = 231 ∨ len = 487)

/-- The byte emitter equals ENCODE (R85, R86; the emitter is the spec's decision D18): started on a payload that is in
place, it takes exactly `L + 6` emit steps, none of the states before is idle, and then `pkt[0 : wp]` is the frame and
the registers stand as R85 leaves them. -/
def Obligations.EmitterComputesEncode : Prop :=
  ∀ (s : State) (pay : List Byte), s.pay.readRange 0 s.opLen.toNat = some pay →
    (∀ k, k < s.opLen.toNat + 6 →
      ∃ t, emitRun k (emitStart s) = .next t ∧ t.ph ≠ .idle ∧ t.wp.toNat = k) ∧
    ∃ t, emitRun (s.opLen.toNat + 6) (emitStart s) = .next t ∧ t.ph = .idle ∧
      t.wp.toNat = s.opLen.toNat + 6 ∧ t.lenR = s.opLen ∧ t.idx.toNat = s.opLen.toNat - 1 ∧
      packetBytes t = some (frame s.opLen pay) ∧ (∀ a, t.pkt.read a = (frame s.opLen pay)[a]?) ∧
      SameRegisters s t ∧ t.trace = s.trace ∧ t.pay = s.pay

/-- The emitter cannot be started while it is not idle (R88 a, the spec's decision D18): the model stops there by name
(log 18). -/
def Obligations.BusyEmitterStops : Prop :=
  ∀ (s : State) (len : Len) (pay : List Byte), s.ph ≠ .idle →
    exec (.sendPacket len pay) s = .fault .emitterBusy ∧
    (24 ≤ len.toNat → len.toNat ≤ 512 → s.lc = 1 → sampleIsOpen s = true →
      exec (.hostWrite len pay) s = .fault .emitterBusy)

/-! ## WRITE (R102) -/

/-- The size check comes before everything else (R102 step 1): outside 24 to 512, in every state, PAYLOAD_SIZE, no
primitive, no sample of `t_is_open`, no payload byte read, no register and no byte of PKT changed. -/
def Obligations.WriteOfBadSizeIsRejectedFirst : Prop :=
  ∀ (s : State) (len : Len) (pay : List Byte), len.toNat < 24 ∨ 512 < len.toNat →
    exec (.hostWrite len pay) s = .next { s with opLen := len, pay := [], reply := some (.error .payloadSize) }

/-- The state check (R102 step 2, the spec's decision D7): a sized WRITE on a framer that is not open, or whose
transport says it is not, answers NOT_OPEN; no primitive, no payload byte read, no register and no byte of PKT
changed. -/
def Obligations.WriteWhenNotOpenIsRejected : Prop :=
  ∀ (s : State) (len : Len) (pay : List Byte), 24 ≤ len.toNat → len.toNat ≤ 512 → s.lc ≠ 3 →
    s.lc ≠ 1 ∨ sampleIsOpen s = false →
    exec (.hostWrite len pay) s =
      .next { afterSample s with opLen := len, pay := [], reply := some (.error .notOpen) }

/-- A WRITE that passes both checks (R102 steps 3 and 4; D7, D13) completes: one T_WRITE, of the whole frame, and the
status its answer gives; none of the framer's four registers changes, and PAY and PKT hold nothing afterwards (log 16
for the latter). -/
def Obligations.WriteSendsTheFrame : Prop :=
  ∀ (s : State) (len : Len) (pay : List Byte) (a : Answer), 24 ≤ len.toNat → len.toNat ≤ 512 →
    s.lc = 1 → sampleIsOpen s = true → s.ph = .idle → pay.length = len.toNat → nextAnswer (afterSample s) = some a →
    ∃ t, exec (.hostWrite len pay) s = .next t ∧
      t.trace = s.trace ++ [{ prim := .write (frame len pay), answer := a }] ∧ t.reply = some (replyOf a) ∧
      SameRegisters s t ∧ t.ph = .idle ∧ t.opName = s.opName ∧ t.pending = s.pending ∧
      t.tPortName = s.tPortName ∧ t.tLineBefore = s.tLineBefore ∧
      (∀ x, t.pay.read x = none) ∧ (∀ x, t.pkt.read x = none) ∧
      t.tIsOpenIn = (afterSample s).tIsOpenIn ∧ t.tAnswers = (afterAnswer (afterSample s)).tAnswers

/-- A WRITE hands the transport at most one packet, and it is the whole one, of `L + 6` bytes, validated first and built
before T_WRITE; a failure is reported and nothing more is done (R44). That validation asks both `lc` and the transport's
`isOpen` is R102 step 2 with the spec's decision D7, and that a failed T_WRITE changes no register is its decision D13. -/
def Obligations.WriteIsAtomicAtTheTransport : Prop :=
  ∀ (s t : State) (len : Len) (pay : List Byte), exec (.hostWrite len pay) s = .next t →
    t.trace = s.trace ∨
    ∃ a, t.trace = s.trace ++ [{ prim := .write (encodeFrame len pay), answer := a }] ∧
      (encodeFrame len pay).length = len.toNat + 6 ∧ 24 ≤ len.toNat ∧ len.toNat ≤ 512 ∧ s.lc = 1 ∧
      sampleIsOpen s = true ∧
      ∀ e, a = .fail e → t.reply = some (.error (.transport e)) ∧ SameRegisters s t

/-- R46. On the WRITE path `24 <= L <= 512`: any other length sends nothing; and what PAY holds at or beyond `L` is
never accessed: it makes no difference to anything a WRITE or an ENCODE does. -/
def Obligations.PayloadBeyondLengthIsNeverRead : Prop :=
  (∀ (s t : State) (len : Len) (pay : List Byte), exec (.hostWrite len pay) s = .next t → t.trace ≠ s.trace →
    24 ≤ len.toNat ∧ len.toNat ≤ 512) ∧
  ∀ (s : State) (len : Len) (pay extra : List Byte), pay.length = len.toNat →
    exec (.hostWrite len (pay ++ extra)) s = exec (.hostWrite len pay) s ∧
    exec (.sendPacket len (pay ++ extra)) s = exec (.sendPacket len pay) s

/-- A payload byte that nothing has written is not read as zero (R33, U12; log 3): ENCODE, alone or inside WRITE, stops
by name. -/
def Obligations.UnwrittenPayloadByteFaults : Prop :=
  ∀ (s : State) (len : Len) (pay : List Byte), s.ph = .idle → pay.length < len.toNat →
    exec (.sendPacket len pay) s = .fault .unspecifiedRead ∧
    (24 ≤ len.toNat → len.toNat ≤ 512 → s.lc = 1 → sampleIsOpen s = true →
      exec (.hostWrite len pay) s = .fault .unspecifiedRead)

/-- What an earlier operation left in PAY, PKT, the operand registers and the emitter's pointers is never transmitted
(R51 a, c): it makes no difference to what a WRITE issues or answers. -/
def Obligations.WriteUsesNothingLeftOver : Prop :=
  ∀ (s t : State) (len : Len) (pay : List Byte) (p q : Memory) (l : Len) (n : PortName) (x y : BitVec 16) (z : BitVec 17),
    exec (.hostWrite len pay) s = .next t →
    ∃ t', exec (.hostWrite len pay)
        { s with pay := p, pkt := q, opLen := l, opName := n, lenR := x, idx := y, wp := z } = .next t' ∧
      t'.trace = t.trace ∧ t'.reply = t.reply ∧ SameRegisters t t' ∧ t'.tIsOpenIn = t.tIsOpenIn ∧
      t'.tAnswers = t.tAnswers ∧ t'.draws = t.draws

/-! ## OPEN (R101) -/

/-- OPEN on a framer that was never open (R101) completes: one T_OPEN with the name unchanged and the fixed serial
parameters; an `ok` answer opens the framer and binds the name, a failure changes no register (the spec's decision
D8). -/
def Obligations.OpenFromUnopened : Prop :=
  ∀ (s : State) (n : PortName) (a : Answer), nameFits n = true → s.lc = 0 → nextAnswer s = some a →
    exec (.hostOpen n) s = .next
      (match a with
       | .ok => { afterAnswer s with
           opName := n, trace := s.trace ++ [{ prim := .openPort n serial8N1, answer := .ok }],
           lc := 1, nameValid := true, name := n, reply := some .ok }
       | .fail e => { afterAnswer s with
           opName := n, trace := s.trace ++ [{ prim := .openPort n serial8N1, answer := .fail e }],
           reply := some (.error (.transport e)) })

/-- OPEN on an already-open framer answers ALREADY_OPEN before any primitive; only the operand register and the status
change. -/
def Obligations.OpenOnAlreadyOpen : Prop :=
  ∀ (s : State) (n : PortName), nameFits n = true → s.lc = 1 →
    exec (.hostOpen n) s = .next { s with opName := n, reply := some (.error .alreadyOpen) }

/-- OPEN after DISPOSE answers ALREADY_OPEN and does nothing, whether or not the framer was ever open (the spec's
decision D6; log 20). -/
def Obligations.OpenAfterDispose : Prop :=
  ∀ (s : State) (n : PortName), nameFits n = true → s.lc = 2 → s.released = true →
    exec (.hostOpen n) s = .next { s with opName := n, reply := some (.error .alreadyOpen) }

/-- OPEN after CLOSE with the handle held, for whichever value REOPEN_AFTER_CLOSE has (the spec's decisions D5, D6, D8;
log 7): turned away, or one T_OPEN that rebinds the name on `ok` and changes no register on failure. -/
def Obligations.OpenAfterClose : Prop :=
  ∀ (s : State) (n : PortName) (a : Answer), nameFits n = true → s.lc = 2 → s.released = false →
    nextAnswer s = some a →
    ∃ t, exec (.hostOpen n) s = .next t ∧ SameEmitter s t ∧ SameBytes s t ∧ t.released = false ∧
      if Config.reopenAfterClose = true then
        t.trace = s.trace ++ [{ prim := .openPort n serial8N1, answer := a }] ∧ t.reply = some (replyOf a) ∧
        (if a = .ok then t.lc = 1 ∧ t.nameValid = true ∧ t.name = n else SameRegisters s t)
      else
        t.trace = s.trace ∧ t.reply = some (.error .alreadyOpen) ∧ SameRegisters s t ∧ t.tAnswers = s.tAnswers

/-- A port name outside the contract (R63 a, U4; D15; log 8): the model gives OPEN and T_OPEN no meaning there, and says
so by name. -/
def Obligations.PortNameOutsideContract : Prop :=
  (∀ s : State, exec (.hostOpen []) s = .refused .emptyPortName ∧ exec (.tOpen []) s = .refused .emptyPortName) ∧
  ∀ (s : State) (n : PortName), Config.nameMax < n.length →
    exec (.hostOpen n) s = .refused .portNameTooLong ∧ exec (.tOpen n) s = .refused .portNameTooLong

/-! ## CLOSE, NAME, DISPOSE, the reserved codes (R103 to R107) -/

/-- CLOSE while the handle is held (R103) completes: one T_CLOSE whatever `lc` is, OPEN becomes CLOSED and the other
states stay, whatever the answer (the spec's decision D10), and the answer is the status. -/
def Obligations.CloseWhileHandleHeld : Prop :=
  ∀ (s : State) (a : Answer), s.released = false → s.lc ≠ 3 → nextAnswer s = some a →
    exec .hostClose s = .next
      { afterAnswer s with
        trace := s.trace ++ [{ prim := .close, answer := a }],
        lc := if s.lc = 1 then 2 else s.lc, reply := some (replyOf a) }

/-- CLOSE after DISPOSE returns OK and does nothing (the spec's decision D11). -/
def Obligations.CloseAfterDispose : Prop :=
  ∀ s : State, s.released = true → exec .hostClose s = .next { s with reply := some .ok }

/-- NAME (R104; the spec's decisions D9, D25) returns the framer's own name register, or none if never opened, in every
state, and changes nothing. -/
def Obligations.NameReturnsTheBoundName : Prop :=
  ∀ s : State,
    (s.nameValid = true → exec .hostName s = .next { s with reply := some (.okName (some s.name)) }) ∧
    (s.nameValid = false → exec .hostName s = .next { s with reply := some (.okName none) })

/-- The first DISPOSE (R105; the spec's decision D12) completes: T_CLOSE then T_DISPOSE, whatever either answers; the
framer is Closed and released; T_CLOSE's failure is the one reported. -/
def Obligations.DisposeReleasesTheHandle : Prop :=
  ∀ (s : State) (r1 r2 : Answer), s.released = false → nextAnswer s = some r1 → nextAnswer (afterAnswer s) = some r2 →
    exec .hostDispose s = .next
      { afterAnswer (afterAnswer s) with
        trace := s.trace ++ [{ prim := .close, answer := r1 }, { prim := .dispose, answer := r2 }],
        lc := 2, released := true, reply := some (disposeReply r1 r2) }

/-- A later DISPOSE returns OK and does nothing (R105). -/
def Obligations.DisposeAgainDoesNothing : Prop :=
  ∀ s : State, s.released = true → exec .hostDispose s = .next { s with reply := some .ok }

/-- The reserved command codes answer ILLEGAL_OP and do nothing (R107; the spec's decision D20). -/
def Obligations.ReservedCodesAnswerIllegalOp : Prop :=
  ∀ s : State,
    exec .reserved0 s = .next { s with reply := some (.error .illegalOp) } ∧
    exec .reserved6 s = .next { s with reply := some (.error .illegalOp) } ∧
    exec .reserved7 s = .next { s with reply := some (.error .illegalOp) }

/-! ## The transport (42_transport_interface.md) -/

/-- Each primitive on its own completes when it is answered: the trace gains it, with its arguments, and nothing else of
the framer changes (R131 to R134; that it is an instruction by itself is the model's, log 12). -/
def Obligations.PrimitivesOnTheirOwn : Prop :=
  ∀ (s : State) (a : Answer), nextAnswer s = some a →
    (∀ n, nameFits n = true → exec (.tOpen n) s = .next
      { afterAnswer s with trace := s.trace ++ [{ prim := .openPort n serial8N1, answer := a }] }) ∧
    (∀ bytes, exec (.tWrite bytes) s = .next
      { afterAnswer s with trace := s.trace ++ [{ prim := .write bytes, answer := a }] }) ∧
    exec .tClose s = .next { afterAnswer s with trace := s.trace ++ [{ prim := .close, answer := a }] } ∧
    exec .tDispose s = .next { afterAnswer s with trace := s.trace ++ [{ prim := .dispose, answer := a }] }

/-- T_OPEN has code 1; it is issued by OPEN only, at most once, with OPEN's name unchanged and the fixed serial
parameters, and only after OPEN's lifecycle tests pass; `ok` lets OPEN write `lc`, `name_valid`, `name` and leaves the
transport's line open; `fail(e)` becomes TransportError(`e`) (R131, R101). What the lifecycle tests are for a CLOSED
framer are the spec's decisions D5 and D6, that a failure writes no register is its decision D8, the code its decision
D16; that the line is then open is TC1's reading of the trace (R137). -/
def Obligations.TOpenIsIssuedByOpenOnly : Prop :=
  (∀ n, ∃ w : PrimWord, encode (.tOpen n) = .prim w ∧ w.tcmd = 1 ∧ w.portName = n ∧ w.serial = serial8N1) ∧
  ∀ (i : Instr) (s t : State), isHostOp i = true → exec i s = .next t →
    ∃ issued, t.trace = s.trace ++ issued ∧
      ∀ x ∈ issued, ∀ n serial, x.prim = .openPort n serial →
        i = .hostOpen n ∧ serial = serial8N1 ∧ issued = [x] ∧ ¬ openTurnedAway s ∧
        (x.answer = .ok → t.lc = 1 ∧ t.nameValid = true ∧ t.name = n ∧ t.reply = some .ok ∧ lineOpen t = true) ∧
        ∀ e, x.answer = .fail e → SameRegisters s t ∧ t.reply = some (.error (.transport e))

/-- R132. T_WRITE has code 2; it is issued by WRITE only, exactly once by a WRITE that passes both checks, with the
complete packet of `L + 6` bytes, 30 to 518 of them, in offset order; `fail(e)` becomes TransportError(`e`); no register
changes either way. -/
def Obligations.TWriteIsIssuedByWriteOnly : Prop :=
  (∀ bytes, ∃ w : PrimWord, encode (.tWrite bytes) = .prim w ∧ w.tcmd = 2 ∧ w.bytes = bytes) ∧
  ∀ (i : Instr) (s t : State), isHostOp i = true → exec i s = .next t →
    ∃ issued, t.trace = s.trace ++ issued ∧
      (∀ x ∈ issued, ∀ bytes, x.prim = .write bytes →
        ∃ len pay, i = .hostWrite len pay ∧ bytes = encodeFrame len pay ∧ bytes.length = len.toNat + 6 ∧
          30 ≤ bytes.length ∧ bytes.length ≤ 518 ∧ issued = [x] ∧ SameRegisters s t ∧
          t.reply = some (replyOf x.answer)) ∧
      ∀ len pay, i = .hostWrite len pay → 24 ≤ len.toNat → len.toNat ≤ 512 → s.lc = 1 → sampleIsOpen s = true →
        ∃ x, issued = [x] ∧ x.prim = .write (encodeFrame len pay)

/-- R133. T_CLOSE has code 3; it is issued by CLOSE, once per CLOSE while `released = 0` whatever `lc` is, and by
DISPOSE, once, on the first DISPOSE; `fail(e)` becomes TransportError(`e`); the framer's register writes do not depend
on the answer. -/
def Obligations.TCloseIsIssuedByCloseAndDispose : Prop :=
  (∃ w : PrimWord, encode .tClose = .prim w ∧ w.tcmd = 3) ∧
  (∀ (i : Instr) (s t : State), isHostOp i = true → exec i s = .next t →
    ∃ issued, t.trace = s.trace ++ issued ∧
      (∀ x ∈ issued, x.prim = .close → (i = .hostClose ∨ i = .hostDispose) ∧ s.released = false ∧
        ∀ e, x.answer = .fail e → t.reply = some (.error (.transport e))) ∧
      ((i = .hostClose ∨ i = .hostDispose) →
        issued.countP (fun x => decide (x.prim = .close)) = if s.released = true then 0 else 1)) ∧
  ∀ (i : Instr) (s t t' : State) (answers : List (Option Answer)), i = .hostClose ∨ i = .hostDispose →
    exec i s = .next t → exec i { s with tAnswers := answers } = .next t' → SameRegisters t t'

/-- R134. T_DISPOSE has code 4; it is issued by DISPOSE only, exactly when the handle was held, directly after that
DISPOSE's T_CLOSE; `fail(e)` becomes TransportError(`e`) unless T_CLOSE already failed; `released` is set either way;
and once the handle is released no step
of a reachable framer (the invariant FramerInv rules the others out) issues any primitive until a reset. -/
def Obligations.TDisposeIsIssuedOnce : Prop :=
  (∃ w : PrimWord, encode .tDispose = .prim w ∧ w.tcmd = 4) ∧
  (∀ (i : Instr) (s t : State), isHostOp i = true → exec i s = .next t →
    ∃ issued, t.trace = s.trace ++ issued ∧
      (∀ x ∈ issued, x.prim = .dispose → i = .hostDispose) ∧
      (i = .hostDispose →
        if s.released = true then issued = []
        else ∃ r1 r2, issued = [{ prim := .close, answer := r1 }, { prim := .dispose, answer := r2 }] ∧
          t.released = true ∧ t.reply = some (disposeReply r1 r2))) ∧
  ∀ s t : State, FramerInv s → s.released = true → noReset s → step s = .next t → t.trace = s.trace ∧ t.released = true

/-- An operation issues no primitive its rule does not list, and none twice (R108): a retry, a second packet or part of
one is never issued, and the packet is not kept for later. That PKT holds nothing after a transmitted WRITE is the
model's choice (log 16); that a DISPOSE which issues anything issues both its primitives, whatever T_CLOSE answers, is
the spec's decision D12 (U5); that a CLOSE may issue none is its decision D11; a primitive alone is the model's (log
12). -/
def Obligations.OperationsIssueOnlyTheirOwnPrimitives : Prop :=
  ∀ (i : Instr) (s t : State), exec i s = .next t →
    ∃ issued, t.trace = s.trace ++ issued ∧
      match i with
      | .hostOpen n => issued.map Exchange.prim = [] ∨ issued.map Exchange.prim = [.openPort n serial8N1]
      | .hostWrite len pay =>
          issued.map Exchange.prim = [] ∨
          (issued.map Exchange.prim = [.write (encodeFrame len pay)] ∧ ∀ a, t.pkt.read a = none)
      | .hostClose => issued.map Exchange.prim = [] ∨ issued.map Exchange.prim = [.close]
      | .hostDispose => issued.map Exchange.prim = [] ∨ issued.map Exchange.prim = [.close, .dispose]
      | .hostName => issued = []
      | .reserved0 => issued = []
      | .reserved6 => issued = []
      | .reserved7 => issued = []
      | .sendPacket _ _ => issued = []
      | .tOpen n => issued.map Exchange.prim = [.openPort n serial8N1]
      | .tWrite bytes => issued.map Exchange.prim = [.write bytes]
      | .tClose => issued.map Exchange.prim = [.close]
      | .tDispose => issued.map Exchange.prim = [.dispose]

/-- A transport failure is reported as it came and never swallowed (R136; that `e` is opaque bits is the spec's decision
D17): TransportError(`e`) is returned only with an `e` that one of the operation's own primitives answered, and if any of
them failed the status is a TransportError. -/
def Obligations.TransportFailuresAreReportedVerbatim : Prop :=
  ∀ (i : Instr) (s t : State), isHostOp i = true → exec i s = .next t →
    ∃ issued, t.trace = s.trace ++ issued ∧
      (∀ e, t.reply = some (.error (.transport e)) → ∃ x ∈ issued, x.answer = .fail e) ∧
      ∀ x ∈ issued, ∀ e, x.answer = .fail e → ∃ e', t.reply = some (.error (.transport e'))

/-- The framer reads the transport's `isOpen` in WRITE only, and its `portName` never (R30, R135; the spec's decisions D7
and D25): changing an input an operation does not read changes nothing it does. -/
def Obligations.TransportInputsAreReadByWriteOnly : Prop :=
  (∀ (i : Instr) (s : State) (p : Option PortName),
    exec i { s with tPortName := p } = mapNext (fun t => { t with tPortName := p }) (exec i s)) ∧
  ∀ (i : Instr) (s : State) (samples : List Bool), isWrite i = false →
    exec i { s with tIsOpenIn := samples } = mapNext (fun t => { t with tIsOpenIn := samples }) (exec i s)

/-- How the transport's inputs are read (logs 4, 5, 6): given answers and samples in their order, each once; where none
is given, a free value, a fresh one each time. This is the model's convention, not a rule. -/
def Obligations.InputsAreReadInOrder : Prop :=
  ∀ (s : State) (a : Option Answer) (rest : List (Option Answer)) (b : Bool) (bs : List Bool),
    (s.tAnswers = a :: rest → nextAnswer s = a ∧ afterAnswer s = { s with tAnswers := rest }) ∧
    (s.tAnswers = [] → nextAnswer s = some (Config.freeAnswer s.draws) ∧ afterAnswer s = { s with draws := s.draws + 1 }) ∧
    (s.tIsOpenIn = b :: bs → sampleIsOpen s = b ∧ afterSample s = { s with tIsOpenIn := bs }) ∧
    (s.tIsOpenIn = [] → sampleIsOpen s = Config.freeIsOpen s.draws ∧ afterSample s = { s with draws := s.draws + 1 })

/-- A primitive that is never answered leaves the framer stuck (R138, R186, U13): every operation that would issue one
stops by name, OPEN of a CLOSED framer with its handle held where the machine reopens (D5) and DISPOSE at either of its
primitives (D12) among them. That stuck is written as a fault is the model's (log 4). -/
def Obligations.UnansweredPrimitiveIsStuck : Prop :=
  (∀ (s : State) (r1 : Answer), s.released = false → nextAnswer s = some r1 → nextAnswer (afterAnswer s) = none →
    exec .hostDispose s = .fault .transportNeverAnswers) ∧
  ∀ s : State, nextAnswer s = none →
    (∀ n, nameFits n = true → s.lc = 2 → s.released = false → Config.reopenAfterClose = true →
      exec (.hostOpen n) s = .fault .transportNeverAnswers) ∧
    (∀ n, nameFits n = true → s.lc = 0 → exec (.hostOpen n) s = .fault .transportNeverAnswers) ∧
    (s.released = false → s.lc ≠ 3 → exec .hostClose s = .fault .transportNeverAnswers) ∧
    (s.released = false → exec .hostDispose s = .fault .transportNeverAnswers) ∧
    (∀ len pay, 24 ≤ len.toNat → len.toNat ≤ 512 → s.lc = 1 → sampleIsOpen s = true → s.ph = .idle →
      pay.length = len.toNat → exec (.hostWrite len pay) s = .fault .transportNeverAnswers) ∧
    (∀ n, nameFits n = true → exec (.tOpen n) s = .fault .transportNeverAnswers) ∧
    (∀ bytes, exec (.tWrite bytes) s = .fault .transportNeverAnswers) ∧
    exec .tClose s = .fault .transportNeverAnswers ∧ exec .tDispose s = .fault .transportNeverAnswers

/-! ## Errors (60_exceptions.md) -/

/-- One operation reports at most one error, the first its pseudocode reaches (R153, with the tests of R101, R102, R103,
R105, R107). When a WRITE is not open is the spec's decision D7, when an OPEN is turned away its decisions D5 and D6,
that CLOSE of a released framer answers OK its decision D11, that DISPOSE issues both its primitives and reports the
first failure its decision D12, the answer to a reserved code its decision D20. -/
def Obligations.FirstErrorIsTheOneReported : Prop :=
  ∀ s t : State,
    (∀ len pay, exec (.hostWrite len pay) s = .next t →
      if len.toNat < 24 ∨ 512 < len.toNat then t.reply = some (.error .payloadSize)
      else if s.lc ≠ 1 ∨ sampleIsOpen s = false then t.reply = some (.error .notOpen)
      else ∃ a, t.trace = s.trace ++ [{ prim := .write (encodeFrame len pay), answer := a }] ∧
        t.reply = some (replyOf a)) ∧
    (∀ n, exec (.hostOpen n) s = .next t →
      (openTurnedAway s ∧ t.reply = some (.error .alreadyOpen) ∧ t.trace = s.trace) ∨
      (¬ openTurnedAway s ∧ ∃ a, t.trace = s.trace ++ [{ prim := .openPort n serial8N1, answer := a }] ∧
        t.reply = some (replyOf a))) ∧
    (exec .hostClose s = .next t →
      (t.reply = some .ok ∧ t.trace = s.trace) ∨
      ∃ a, t.trace = s.trace ++ [{ prim := .close, answer := a }] ∧ t.reply = some (replyOf a)) ∧
    (exec .hostDispose s = .next t →
      (t.reply = some .ok ∧ t.trace = s.trace) ∨
      ∃ r1 r2, t.trace = s.trace ++ [{ prim := .close, answer := r1 }, { prim := .dispose, answer := r2 }] ∧
        t.reply = some (disposeReply r1 r2)) ∧
    (exec .reserved0 s = .next t ∨ exec .reserved6 s = .next t ∨ exec .reserved7 s = .next t →
      t.reply = some (.error .illegalOp) ∧ t.trace = s.trace)

/-- What each failure leaves behind (R154): a validation failure leaves every register and the trace unchanged; a failed
T_OPEN or T_WRITE leaves every register unchanged, and the trace has gained that primitive; a failed T_CLOSE in CLOSE leaves
`lc` CLOSED if it was OPEN, and the trace has gained it; a failure in DISPOSE leaves the framer Closed and released, and the
trace has gained both primitives (R105; the spec's decisions D8, D10, D12, D13). -/
def Obligations.FailuresArePrecise : Prop :=
  ∀ (i : Instr) (s t : State) (k : ErrorKind), isHostOp i = true → exec i s = .next t → t.reply = some (.error k) →
    ((∀ e, k ≠ .transport e) → SameRegisters s t ∧ t.trace = s.trace) ∧
    ∀ e, k = .transport e →
      match i with
      | .hostClose => t.lc = (if s.lc = 1 then 2 else s.lc) ∧ t.released = s.released ∧ t.nameValid = s.nameValid ∧
          t.name = s.name ∧ t.trace = s.trace ++ [{ prim := .close, answer := .fail e }]
      | .hostDispose => t.lc = 2 ∧ t.released = true ∧ t.nameValid = s.nameValid ∧ t.name = s.name ∧
          ∃ r1 r2, t.trace = s.trace ++ [{ prim := .close, answer := r1 }, { prim := .dispose, answer := r2 }] ∧
            disposeReply r1 r2 = .error (.transport e)
      | .hostOpen n => SameRegisters s t ∧
          t.trace = s.trace ++ [{ prim := .openPort n serial8N1, answer := .fail e }]
      | .hostWrite len pay => SameRegisters s t ∧
          t.trace = s.trace ++ [{ prim := .write (encodeFrame len pay), answer := .fail e }]
      | _ => False

/-- Every operation returns a status at its end, and no later operation reads an earlier operation's status (R27): with
another status on the port, every host operation does exactly the same. -/
def Obligations.StatusIsAnOutputOnly : Prop :=
  (∀ (i : Instr) (s t : State), isHostOp i = true → exec i s = .next t → t.reply.isSome = true) ∧
  ∀ (i : Instr) (s : State) (r : Option Reply),
    (isHostOp i = true → ∀ t, exec i s = .next t → exec i { s with reply := r } = .next t) ∧
    mapNext (fun t => { t with reply := none }) (exec i { s with reply := r }) =
      mapNext (fun t => { t with reply := none }) (exec i s)

/-- `lc = 3` is written by no rule, and the meanings that read `lc` stop there by name (U11; log 17). -/
def Obligations.IllegalLifecycleFaults : Prop :=
  ∀ s : State, s.lc = 3 →
    (∀ n, nameFits n = true → exec (.hostOpen n) s = .fault .illegalLifecycle) ∧
    (∀ len pay, 24 ≤ len.toNat → len.toNat ≤ 512 → exec (.hostWrite len pay) s = .fault .illegalLifecycle) ∧
    (s.released = false → exec .hostClose s = .fault .illegalLifecycle)

/-! ## The whole machine -/

/-- Which operation may change what (R11, R21, R22, R23, R25, R29): `lc` only OPEN, CLOSE, DISPOSE; `released` only
DISPOSE; the name only OPEN; the emitter and the bytes of PAY and PKT only WRITE and SEND_PACKET; the operand registers
only the operations that take them; the status only host operations; what the host will present and the transport's
`portName` nothing. -/
def Obligations.OnlyTheseOperationsChangeThat : Prop :=
  ∀ (i : Instr) (s t : State), exec i s = .next t →
    (t.lc ≠ s.lc → (∃ n, i = .hostOpen n) ∨ i = .hostClose ∨ i = .hostDispose) ∧
    (t.released ≠ s.released → i = .hostDispose) ∧
    (t.nameValid ≠ s.nameValid ∨ t.name ≠ s.name → ∃ n, i = .hostOpen n) ∧
    (¬ SameEmitter s t ∨ ¬ SameBytes s t ∨ t.opLen ≠ s.opLen →
      (∃ len pay, i = .hostWrite len pay) ∨ ∃ len pay, i = .sendPacket len pay) ∧
    (t.opName ≠ s.opName → ∃ n, i = .hostOpen n) ∧
    (t.reply ≠ s.reply → isHostOp i = true) ∧
    t.pending = s.pending ∧ t.tPortName = s.tPortName ∧ t.tLineBefore = s.tLineBefore

/-- After reset the framer is a fresh instance (R32, R180; the spec's decision D19): the values the spec states for the
registers and the trace. It leaves PAY and PKT unspecified; that they then read as no value, so that a read faults, is
the model's inference from R33 (log 3). -/
def Obligations.ResetIsAFreshInstance : Prop :=
  State.reset.lc = 0 ∧ State.reset.released = false ∧ State.reset.nameValid = false ∧ State.reset.ph = .idle ∧
  State.reset.trace = [] ∧ (∀ a, State.reset.pay.read a = none) ∧ ∀ a, State.reset.pkt.read a = none

/-- A reset between operations (R180, R181; D19) makes the framer a fresh instance from any state, even a released or an
illegal one, issues no primitive, and leaves the world outside as it was: a port that was left open is still open under
TC1, because no T_CLOSE or T_DISPOSE was issued (R137; log 26). -/
def Obligations.ResetRequestRestarts : Prop :=
  ∀ (s : State) (rest : List Request), s.pending = .reset :: rest →
    ∃ t, step s = .next t ∧ t.lc = 0 ∧ t.released = false ∧ t.nameValid = false ∧ t.ph = .idle ∧ t.trace = [] ∧
      t.pending = rest ∧ t.tIsOpenIn = s.tIsOpenIn ∧ t.tAnswers = s.tAnswers ∧ t.tPortName = s.tPortName ∧
      t.draws = s.draws ∧ lineOpen t = lineOpen s

/-- A step takes the next request, and runs the instruction it decodes to (R6, R48 O-a). -/
def Obligations.StepRunsTheDecodedInstruction : Prop :=
  ∀ (s : State) (r : Request) (rest : List Request) (e : Encoded) (i : Instr),
    s.pending = r :: rest → r.encoded = some e → decode e = .ok i → step s = exec i { s with pending := rest }

/-- With nothing presented the framer waits (R180); bytes that are no frame are refused by name (log 13); every command
of the host is run, as the operation its word decodes to. -/
def Obligations.StepWaitsOrRunsTheCommand : Prop :=
  ∀ s : State,
    (s.pending = [] → step s = .next s) ∧
    (∀ w rest, s.pending = .command w :: rest →
      step s = exec (decodeHost w) { s with pending := rest }) ∧
    ∀ bytes rest why, s.pending = .packet bytes :: rest → decode (.wire bytes) = .error why →
      step s = .refused (.undecodable why)

/-- The invariant holds after reset. -/
def Obligations.ResetMeetsInv : Prop := FramerInv State.reset

/-- Every step keeps the invariant (R31, R23, R88 e, R106, R131, R132, R134, R137): the lifecycle stays legal, a released
framer is Closed, an open one has a name of 1 to NAME_MAX bytes, the emitter is idle between operations, both spaces keep
their canonical form, only well-formed primitives have been issued, T_DISPOSE exactly once when released, and the
port is open under TC1 while the lifecycle is Open and closed while it is Closed. -/
def Obligations.StepKeepsInv : Prop := ∀ s t : State, FramerInv s → step s = .next t → FramerInv t

/-- The lifecycle only moves forward without a reset (R31 I-e, I-f; R106): a name or a release is never undone, and `lc`
goes from CLOSED back to OPEN only with the handle held on a machine whose REOPEN_AFTER_CLOSE is true (D5). -/
def Obligations.LifecycleMovesForward : Prop :=
  ∀ s t : State, FramerInv s → noReset s → step s = .next t →
    (s.nameValid = true → t.nameValid = true) ∧ (s.released = true → t.released = true) ∧
    (t.lc = s.lc ∨ (s.lc = 0 ∧ (t.lc = 1 ∨ t.lc = 2)) ∨ (s.lc = 1 ∧ t.lc = 2) ∨
      (s.lc = 2 ∧ t.lc = 1 ∧ s.released = false ∧ Config.reopenAfterClose = true))

/-- Under TC1 the state test of WRITE is the test of `lc` alone (R137). -/
def Obligations.UnderTC1WriteTestsLifecycle : Prop :=
  ∀ (s t : State) (len : Len) (pay : List Byte), FramerInv s → TC1 s → 24 ≤ len.toNat → len.toNat ≤ 512 →
    exec (.hostWrite len pay) s = .next t →
    (t.reply = some (.error .notOpen) ↔ s.lc ≠ 1)

/-- Under TC5 every operation of the host returns (R137, R186): from every state of the invariant in which no primitive
goes without an answer, every well-formed operation answers a next state, with a status. -/
def Obligations.UnderTC5EveryOperationReturns : Prop :=
  ∀ (i : Instr) (s : State), FramerInv s → TC5 s → isHostOp i = true → i.wf = true →
    ∃ t, exec i s = .next t ∧ t.reply.isSome = true ∧ TC5 t
end

