-- ==== Sys2Proof/Laws/Decode.lean ====
section
/-! SUPPORT. The frame reads back: a receiver of `encodeFrame` gets the length and the payload, and whatever a
receiver accepts is such a frame. -/

namespace Sys2Proof

theorem lenOf_lo_hi (len : Len) : lenOf (lenLo len) (lenHi len) = len := by
  simp only [lenOf, lenLo, lenHi]
  apply BitVec.eq_of_toNat_eq
  rw [BitVec.toNat_append]
  simp only [BitVec.extractLsb'_toNat, Nat.shiftRight_zero]
  have := len.isLt
  rw [Nat.shiftLeft_eq, Nat.shiftRight_eq_div_pow, Nat.or_comm]
  have hlo : len.toNat % 2 ^ 8 < 2 ^ 8 := Nat.mod_lt _ (by norm_num)
  rw [Nat.or_comm, Nat.mul_comm, ← Nat.two_pow_add_eq_or_of_lt hlo]
  omega

theorem lenLo_lenOf (lo hi : Byte) : lenLo (lenOf lo hi) = lo := by
  simp only [lenOf, lenLo]
  apply BitVec.eq_of_toNat_eq
  simp only [BitVec.extractLsb'_toNat, Nat.shiftRight_zero, BitVec.toNat_append, Nat.shiftLeft_eq]
  have hlo := lo.isLt
  rw [Nat.mul_comm, ← Nat.two_pow_add_eq_or_of_lt hlo]
  omega

theorem lenHi_lenOf (lo hi : Byte) : lenHi (lenOf lo hi) = hi := by
  simp only [lenOf, lenHi]
  apply BitVec.eq_of_toNat_eq
  simp only [BitVec.extractLsb'_toNat, BitVec.toNat_append, Nat.shiftLeft_eq, Nat.shiftRight_eq_div_pow]
  have hlo := lo.isLt
  have hhi := hi.isLt
  rw [Nat.mul_comm, ← Nat.two_pow_add_eq_or_of_lt hlo]
  omega

/-- The receiver of a frame gets its length and payload (R61, R84). -/
theorem parseFrame_encodeFrame {len : Len} {pay : List Byte} (h : pay.length = len.toNat) :
    parseFrame (encodeFrame len pay) = .ok (len, pay) := by
  have ht : pay.take len.toNat = pay := by rw [← h, List.take_length]
  have hd : (pay ++ [Config.endByte]).drop len.toNat = [Config.endByte] := by rw [← h]; simp
  have hk : (pay ++ [Config.endByte]).take len.toNat = pay := by rw [← h]; simp
  simp [parseFrame, encodeFrame, lenOf_lo_hi, ht, hd, hk, h]

/-- Whatever a receiver accepts is the frame of what it got (R61). -/
theorem parseFrame_eq_ok {bytes : List Byte} {len : Len} {pay : List Byte} (h : parseFrame bytes = .ok (len, pay)) :
    pay.length = len.toNat ∧ bytes = encodeFrame len pay := by
  unfold parseFrame at h
  split at h
  · rename_i b0 b1 lo hi b4 rest
    split at h
    · cases h
    · split at h
      · cases h
      · split at h
        · cases h
        · split at h
          · cases h
          · split at h
            · cases h
            · rename_i h0 h1 h4 hlen hend
              simp only [ne_eq, not_not] at h0 h1 h4 hlen hend
              injection h with h
              injection h with hl hp
              subst hl hp
              have hpl : (rest.take (lenOf lo hi).toNat).length = (lenOf lo hi).toNat := by simp [hlen]
              refine ⟨hpl, ?_⟩
              simp only [encodeFrame, lenLo_lenOf, lenHi_lenOf, h0, h1, h4, List.take_take, min_self]
              have := List.take_append_drop (lenOf lo hi).toNat rest
              rw [hend] at this
              simp [this]
  · cases h

end Sys2Proof
end

