-- ==== Sys2Proof/Laws/State.lean ====
section
/-! SUPPORT. One lemma per field per update of State: what each update writes, and that it leaves the other fields
alone. -/

namespace Sys2Proof.Machine

@[simp] theorem raise_eq (k : ErrorKind) (s : State) : raise k s = endWith (.error k) s := rfl
@[simp] theorem returnOk_eq (s : State) : returnOk s = endWith .ok s := rfl
@[simp] theorem returnName_eq (v : Option PortName) (s : State) : returnName v s = endWith (.okName v) s := rfl


/-! ### latchName -/

@[simp] theorem latchName_lc (n : PortName) (s : State) : (latchName n s).lc = s.lc := rfl
@[simp] theorem latchName_released (n : PortName) (s : State) : (latchName n s).released = s.released := rfl
@[simp] theorem latchName_nameValid (n : PortName) (s : State) : (latchName n s).nameValid = s.nameValid := rfl
@[simp] theorem latchName_name (n : PortName) (s : State) : (latchName n s).name = s.name := rfl
@[simp] theorem latchName_ph (n : PortName) (s : State) : (latchName n s).ph = s.ph := rfl
@[simp] theorem latchName_lenR (n : PortName) (s : State) : (latchName n s).lenR = s.lenR := rfl
@[simp] theorem latchName_idx (n : PortName) (s : State) : (latchName n s).idx = s.idx := rfl
@[simp] theorem latchName_wp (n : PortName) (s : State) : (latchName n s).wp = s.wp := rfl
@[simp] theorem latchName_opLen (n : PortName) (s : State) : (latchName n s).opLen = s.opLen := rfl
@[simp] theorem latchName_opName (n : PortName) (s : State) : (latchName n s).opName = n := rfl
@[simp] theorem latchName_pay (n : PortName) (s : State) : (latchName n s).pay = s.pay := rfl
@[simp] theorem latchName_pkt (n : PortName) (s : State) : (latchName n s).pkt = s.pkt := rfl
@[simp] theorem latchName_trace (n : PortName) (s : State) : (latchName n s).trace = s.trace := rfl
@[simp] theorem latchName_reply (n : PortName) (s : State) : (latchName n s).reply = s.reply := rfl
@[simp] theorem latchName_pending (n : PortName) (s : State) : (latchName n s).pending = s.pending := rfl
@[simp] theorem latchName_tIsOpenIn (n : PortName) (s : State) : (latchName n s).tIsOpenIn = s.tIsOpenIn := rfl
@[simp] theorem latchName_tAnswers (n : PortName) (s : State) : (latchName n s).tAnswers = s.tAnswers := rfl
@[simp] theorem latchName_tPortName (n : PortName) (s : State) : (latchName n s).tPortName = s.tPortName := rfl
@[simp] theorem latchName_tLineBefore (n : PortName) (s : State) : (latchName n s).tLineBefore = s.tLineBefore := rfl
@[simp] theorem latchName_draws (n : PortName) (s : State) : (latchName n s).draws = s.draws := rfl

/-! ### latchPayload -/

@[simp] theorem latchPayload_lc (l : Len) (p : List Byte) (s : State) : (latchPayload l p s).lc = s.lc := rfl
@[simp] theorem latchPayload_released (l : Len) (p : List Byte) (s : State) : (latchPayload l p s).released = s.released := rfl
@[simp] theorem latchPayload_nameValid (l : Len) (p : List Byte) (s : State) : (latchPayload l p s).nameValid = s.nameValid := rfl
@[simp] theorem latchPayload_name (l : Len) (p : List Byte) (s : State) : (latchPayload l p s).name = s.name := rfl
@[simp] theorem latchPayload_ph (l : Len) (p : List Byte) (s : State) : (latchPayload l p s).ph = s.ph := rfl
@[simp] theorem latchPayload_lenR (l : Len) (p : List Byte) (s : State) : (latchPayload l p s).lenR = s.lenR := rfl
@[simp] theorem latchPayload_idx (l : Len) (p : List Byte) (s : State) : (latchPayload l p s).idx = s.idx := rfl
@[simp] theorem latchPayload_wp (l : Len) (p : List Byte) (s : State) : (latchPayload l p s).wp = s.wp := rfl
@[simp] theorem latchPayload_opLen (l : Len) (p : List Byte) (s : State) : (latchPayload l p s).opLen = l := rfl
@[simp] theorem latchPayload_opName (l : Len) (p : List Byte) (s : State) : (latchPayload l p s).opName = s.opName := rfl
@[simp] theorem latchPayload_pay (l : Len) (p : List Byte) (s : State) : (latchPayload l p s).pay = Memory.ofBytes 0 p := rfl
@[simp] theorem latchPayload_pkt (l : Len) (p : List Byte) (s : State) : (latchPayload l p s).pkt = s.pkt := rfl
@[simp] theorem latchPayload_trace (l : Len) (p : List Byte) (s : State) : (latchPayload l p s).trace = s.trace := rfl
@[simp] theorem latchPayload_reply (l : Len) (p : List Byte) (s : State) : (latchPayload l p s).reply = s.reply := rfl
@[simp] theorem latchPayload_pending (l : Len) (p : List Byte) (s : State) : (latchPayload l p s).pending = s.pending := rfl
@[simp] theorem latchPayload_tIsOpenIn (l : Len) (p : List Byte) (s : State) : (latchPayload l p s).tIsOpenIn = s.tIsOpenIn := rfl
@[simp] theorem latchPayload_tAnswers (l : Len) (p : List Byte) (s : State) : (latchPayload l p s).tAnswers = s.tAnswers := rfl
@[simp] theorem latchPayload_tPortName (l : Len) (p : List Byte) (s : State) : (latchPayload l p s).tPortName = s.tPortName := rfl
@[simp] theorem latchPayload_tLineBefore (l : Len) (p : List Byte) (s : State) : (latchPayload l p s).tLineBefore = s.tLineBefore := rfl
@[simp] theorem latchPayload_draws (l : Len) (p : List Byte) (s : State) : (latchPayload l p s).draws = s.draws := rfl

/-! ### dropPayload -/

@[simp] theorem dropPayload_lc (s : State) : (dropPayload s).lc = s.lc := rfl
@[simp] theorem dropPayload_released (s : State) : (dropPayload s).released = s.released := rfl
@[simp] theorem dropPayload_nameValid (s : State) : (dropPayload s).nameValid = s.nameValid := rfl
@[simp] theorem dropPayload_name (s : State) : (dropPayload s).name = s.name := rfl
@[simp] theorem dropPayload_ph (s : State) : (dropPayload s).ph = s.ph := rfl
@[simp] theorem dropPayload_lenR (s : State) : (dropPayload s).lenR = s.lenR := rfl
@[simp] theorem dropPayload_idx (s : State) : (dropPayload s).idx = s.idx := rfl
@[simp] theorem dropPayload_wp (s : State) : (dropPayload s).wp = s.wp := rfl
@[simp] theorem dropPayload_opLen (s : State) : (dropPayload s).opLen = s.opLen := rfl
@[simp] theorem dropPayload_opName (s : State) : (dropPayload s).opName = s.opName := rfl
@[simp] theorem dropPayload_pay (s : State) : (dropPayload s).pay = [] := rfl
@[simp] theorem dropPayload_pkt (s : State) : (dropPayload s).pkt = s.pkt := rfl
@[simp] theorem dropPayload_trace (s : State) : (dropPayload s).trace = s.trace := rfl
@[simp] theorem dropPayload_reply (s : State) : (dropPayload s).reply = s.reply := rfl
@[simp] theorem dropPayload_pending (s : State) : (dropPayload s).pending = s.pending := rfl
@[simp] theorem dropPayload_tIsOpenIn (s : State) : (dropPayload s).tIsOpenIn = s.tIsOpenIn := rfl
@[simp] theorem dropPayload_tAnswers (s : State) : (dropPayload s).tAnswers = s.tAnswers := rfl
@[simp] theorem dropPayload_tPortName (s : State) : (dropPayload s).tPortName = s.tPortName := rfl
@[simp] theorem dropPayload_tLineBefore (s : State) : (dropPayload s).tLineBefore = s.tLineBefore := rfl
@[simp] theorem dropPayload_draws (s : State) : (dropPayload s).draws = s.draws := rfl

/-! ### dropPacket -/

@[simp] theorem dropPacket_lc (s : State) : (dropPacket s).lc = s.lc := rfl
@[simp] theorem dropPacket_released (s : State) : (dropPacket s).released = s.released := rfl
@[simp] theorem dropPacket_nameValid (s : State) : (dropPacket s).nameValid = s.nameValid := rfl
@[simp] theorem dropPacket_name (s : State) : (dropPacket s).name = s.name := rfl
@[simp] theorem dropPacket_ph (s : State) : (dropPacket s).ph = s.ph := rfl
@[simp] theorem dropPacket_lenR (s : State) : (dropPacket s).lenR = s.lenR := rfl
@[simp] theorem dropPacket_idx (s : State) : (dropPacket s).idx = s.idx := rfl
@[simp] theorem dropPacket_wp (s : State) : (dropPacket s).wp = s.wp := rfl
@[simp] theorem dropPacket_opLen (s : State) : (dropPacket s).opLen = s.opLen := rfl
@[simp] theorem dropPacket_opName (s : State) : (dropPacket s).opName = s.opName := rfl
@[simp] theorem dropPacket_pay (s : State) : (dropPacket s).pay = s.pay := rfl
@[simp] theorem dropPacket_pkt (s : State) : (dropPacket s).pkt = [] := rfl
@[simp] theorem dropPacket_trace (s : State) : (dropPacket s).trace = s.trace := rfl
@[simp] theorem dropPacket_reply (s : State) : (dropPacket s).reply = s.reply := rfl
@[simp] theorem dropPacket_pending (s : State) : (dropPacket s).pending = s.pending := rfl
@[simp] theorem dropPacket_tIsOpenIn (s : State) : (dropPacket s).tIsOpenIn = s.tIsOpenIn := rfl
@[simp] theorem dropPacket_tAnswers (s : State) : (dropPacket s).tAnswers = s.tAnswers := rfl
@[simp] theorem dropPacket_tPortName (s : State) : (dropPacket s).tPortName = s.tPortName := rfl
@[simp] theorem dropPacket_tLineBefore (s : State) : (dropPacket s).tLineBefore = s.tLineBefore := rfl
@[simp] theorem dropPacket_draws (s : State) : (dropPacket s).draws = s.draws := rfl

/-! ### endWith -/

@[simp] theorem endWith_lc (r : Reply) (s : State) : (endWith r s).lc = s.lc := rfl
@[simp] theorem endWith_released (r : Reply) (s : State) : (endWith r s).released = s.released := rfl
@[simp] theorem endWith_nameValid (r : Reply) (s : State) : (endWith r s).nameValid = s.nameValid := rfl
@[simp] theorem endWith_name (r : Reply) (s : State) : (endWith r s).name = s.name := rfl
@[simp] theorem endWith_ph (r : Reply) (s : State) : (endWith r s).ph = s.ph := rfl
@[simp] theorem endWith_lenR (r : Reply) (s : State) : (endWith r s).lenR = s.lenR := rfl
@[simp] theorem endWith_idx (r : Reply) (s : State) : (endWith r s).idx = s.idx := rfl
@[simp] theorem endWith_wp (r : Reply) (s : State) : (endWith r s).wp = s.wp := rfl
@[simp] theorem endWith_opLen (r : Reply) (s : State) : (endWith r s).opLen = s.opLen := rfl
@[simp] theorem endWith_opName (r : Reply) (s : State) : (endWith r s).opName = s.opName := rfl
@[simp] theorem endWith_pay (r : Reply) (s : State) : (endWith r s).pay = s.pay := rfl
@[simp] theorem endWith_pkt (r : Reply) (s : State) : (endWith r s).pkt = s.pkt := rfl
@[simp] theorem endWith_trace (r : Reply) (s : State) : (endWith r s).trace = s.trace := rfl
@[simp] theorem endWith_reply (r : Reply) (s : State) : (endWith r s).reply = some r := rfl
@[simp] theorem endWith_pending (r : Reply) (s : State) : (endWith r s).pending = s.pending := rfl
@[simp] theorem endWith_tIsOpenIn (r : Reply) (s : State) : (endWith r s).tIsOpenIn = s.tIsOpenIn := rfl
@[simp] theorem endWith_tAnswers (r : Reply) (s : State) : (endWith r s).tAnswers = s.tAnswers := rfl
@[simp] theorem endWith_tPortName (r : Reply) (s : State) : (endWith r s).tPortName = s.tPortName := rfl
@[simp] theorem endWith_tLineBefore (r : Reply) (s : State) : (endWith r s).tLineBefore = s.tLineBefore := rfl
@[simp] theorem endWith_draws (r : Reply) (s : State) : (endWith r s).draws = s.draws := rfl

/-! ### emitStart -/

@[simp] theorem emitStart_lc (s : State) : (emitStart s).lc = s.lc := rfl
@[simp] theorem emitStart_released (s : State) : (emitStart s).released = s.released := rfl
@[simp] theorem emitStart_nameValid (s : State) : (emitStart s).nameValid = s.nameValid := rfl
@[simp] theorem emitStart_name (s : State) : (emitStart s).name = s.name := rfl
@[simp] theorem emitStart_ph (s : State) : (emitStart s).ph = .start := rfl
@[simp] theorem emitStart_lenR (s : State) : (emitStart s).lenR = s.opLen := rfl
@[simp] theorem emitStart_idx (s : State) : (emitStart s).idx = 0 := rfl
@[simp] theorem emitStart_wp (s : State) : (emitStart s).wp = 0 := rfl
@[simp] theorem emitStart_opLen (s : State) : (emitStart s).opLen = s.opLen := rfl
@[simp] theorem emitStart_opName (s : State) : (emitStart s).opName = s.opName := rfl
@[simp] theorem emitStart_pay (s : State) : (emitStart s).pay = s.pay := rfl
@[simp] theorem emitStart_pkt (s : State) : (emitStart s).pkt = [] := rfl
@[simp] theorem emitStart_trace (s : State) : (emitStart s).trace = s.trace := rfl
@[simp] theorem emitStart_reply (s : State) : (emitStart s).reply = s.reply := rfl
@[simp] theorem emitStart_pending (s : State) : (emitStart s).pending = s.pending := rfl
@[simp] theorem emitStart_tIsOpenIn (s : State) : (emitStart s).tIsOpenIn = s.tIsOpenIn := rfl
@[simp] theorem emitStart_tAnswers (s : State) : (emitStart s).tAnswers = s.tAnswers := rfl
@[simp] theorem emitStart_tPortName (s : State) : (emitStart s).tPortName = s.tPortName := rfl
@[simp] theorem emitStart_tLineBefore (s : State) : (emitStart s).tLineBefore = s.tLineBefore := rfl
@[simp] theorem emitStart_draws (s : State) : (emitStart s).draws = s.draws := rfl

/-! ### putByte -/

@[simp] theorem putByte_lc (b : Byte) (p : Phase) (s : State) : (putByte b p s).lc = s.lc := rfl
@[simp] theorem putByte_released (b : Byte) (p : Phase) (s : State) : (putByte b p s).released = s.released := rfl
@[simp] theorem putByte_nameValid (b : Byte) (p : Phase) (s : State) : (putByte b p s).nameValid = s.nameValid := rfl
@[simp] theorem putByte_name (b : Byte) (p : Phase) (s : State) : (putByte b p s).name = s.name := rfl
@[simp] theorem putByte_ph (b : Byte) (p : Phase) (s : State) : (putByte b p s).ph = p := rfl
@[simp] theorem putByte_lenR (b : Byte) (p : Phase) (s : State) : (putByte b p s).lenR = s.lenR := rfl
@[simp] theorem putByte_idx (b : Byte) (p : Phase) (s : State) : (putByte b p s).idx = s.idx := rfl
@[simp] theorem putByte_wp (b : Byte) (p : Phase) (s : State) : (putByte b p s).wp = s.wp + 1 := rfl
@[simp] theorem putByte_opLen (b : Byte) (p : Phase) (s : State) : (putByte b p s).opLen = s.opLen := rfl
@[simp] theorem putByte_opName (b : Byte) (p : Phase) (s : State) : (putByte b p s).opName = s.opName := rfl
@[simp] theorem putByte_pay (b : Byte) (p : Phase) (s : State) : (putByte b p s).pay = s.pay := rfl
@[simp] theorem putByte_pkt (b : Byte) (p : Phase) (s : State) : (putByte b p s).pkt = s.pkt.write s.wp.toNat b := rfl
@[simp] theorem putByte_trace (b : Byte) (p : Phase) (s : State) : (putByte b p s).trace = s.trace := rfl
@[simp] theorem putByte_reply (b : Byte) (p : Phase) (s : State) : (putByte b p s).reply = s.reply := rfl
@[simp] theorem putByte_pending (b : Byte) (p : Phase) (s : State) : (putByte b p s).pending = s.pending := rfl
@[simp] theorem putByte_tIsOpenIn (b : Byte) (p : Phase) (s : State) : (putByte b p s).tIsOpenIn = s.tIsOpenIn := rfl
@[simp] theorem putByte_tAnswers (b : Byte) (p : Phase) (s : State) : (putByte b p s).tAnswers = s.tAnswers := rfl
@[simp] theorem putByte_tPortName (b : Byte) (p : Phase) (s : State) : (putByte b p s).tPortName = s.tPortName := rfl
@[simp] theorem putByte_tLineBefore (b : Byte) (p : Phase) (s : State) : (putByte b p s).tLineBefore = s.tLineBefore := rfl
@[simp] theorem putByte_draws (b : Byte) (p : Phase) (s : State) : (putByte b p s).draws = s.draws := rfl

/-! ### afterSample -/

@[simp] theorem afterSample_lc (s : State) : (afterSample s).lc = s.lc := by unfold afterSample; split <;> rfl
@[simp] theorem afterSample_released (s : State) : (afterSample s).released = s.released := by unfold afterSample; split <;> rfl
@[simp] theorem afterSample_nameValid (s : State) : (afterSample s).nameValid = s.nameValid := by unfold afterSample; split <;> rfl
@[simp] theorem afterSample_name (s : State) : (afterSample s).name = s.name := by unfold afterSample; split <;> rfl
@[simp] theorem afterSample_ph (s : State) : (afterSample s).ph = s.ph := by unfold afterSample; split <;> rfl
@[simp] theorem afterSample_lenR (s : State) : (afterSample s).lenR = s.lenR := by unfold afterSample; split <;> rfl
@[simp] theorem afterSample_idx (s : State) : (afterSample s).idx = s.idx := by unfold afterSample; split <;> rfl
@[simp] theorem afterSample_wp (s : State) : (afterSample s).wp = s.wp := by unfold afterSample; split <;> rfl
@[simp] theorem afterSample_opLen (s : State) : (afterSample s).opLen = s.opLen := by unfold afterSample; split <;> rfl
@[simp] theorem afterSample_opName (s : State) : (afterSample s).opName = s.opName := by unfold afterSample; split <;> rfl
@[simp] theorem afterSample_pay (s : State) : (afterSample s).pay = s.pay := by unfold afterSample; split <;> rfl
@[simp] theorem afterSample_pkt (s : State) : (afterSample s).pkt = s.pkt := by unfold afterSample; split <;> rfl
@[simp] theorem afterSample_trace (s : State) : (afterSample s).trace = s.trace := by unfold afterSample; split <;> rfl
@[simp] theorem afterSample_reply (s : State) : (afterSample s).reply = s.reply := by unfold afterSample; split <;> rfl
@[simp] theorem afterSample_pending (s : State) : (afterSample s).pending = s.pending := by unfold afterSample; split <;> rfl
@[simp] theorem afterSample_tAnswers (s : State) : (afterSample s).tAnswers = s.tAnswers := by unfold afterSample; split <;> rfl
@[simp] theorem afterSample_tPortName (s : State) : (afterSample s).tPortName = s.tPortName := by unfold afterSample; split <;> rfl
@[simp] theorem afterSample_tLineBefore (s : State) : (afterSample s).tLineBefore = s.tLineBefore := by unfold afterSample; split <;> rfl

/-! ### afterAnswer -/

@[simp] theorem afterAnswer_lc (s : State) : (afterAnswer s).lc = s.lc := by unfold afterAnswer; split <;> rfl
@[simp] theorem afterAnswer_released (s : State) : (afterAnswer s).released = s.released := by unfold afterAnswer; split <;> rfl
@[simp] theorem afterAnswer_nameValid (s : State) : (afterAnswer s).nameValid = s.nameValid := by unfold afterAnswer; split <;> rfl
@[simp] theorem afterAnswer_name (s : State) : (afterAnswer s).name = s.name := by unfold afterAnswer; split <;> rfl
@[simp] theorem afterAnswer_ph (s : State) : (afterAnswer s).ph = s.ph := by unfold afterAnswer; split <;> rfl
@[simp] theorem afterAnswer_lenR (s : State) : (afterAnswer s).lenR = s.lenR := by unfold afterAnswer; split <;> rfl
@[simp] theorem afterAnswer_idx (s : State) : (afterAnswer s).idx = s.idx := by unfold afterAnswer; split <;> rfl
@[simp] theorem afterAnswer_wp (s : State) : (afterAnswer s).wp = s.wp := by unfold afterAnswer; split <;> rfl
@[simp] theorem afterAnswer_opLen (s : State) : (afterAnswer s).opLen = s.opLen := by unfold afterAnswer; split <;> rfl
@[simp] theorem afterAnswer_opName (s : State) : (afterAnswer s).opName = s.opName := by unfold afterAnswer; split <;> rfl
@[simp] theorem afterAnswer_pay (s : State) : (afterAnswer s).pay = s.pay := by unfold afterAnswer; split <;> rfl
@[simp] theorem afterAnswer_pkt (s : State) : (afterAnswer s).pkt = s.pkt := by unfold afterAnswer; split <;> rfl
@[simp] theorem afterAnswer_trace (s : State) : (afterAnswer s).trace = s.trace := by unfold afterAnswer; split <;> rfl
@[simp] theorem afterAnswer_reply (s : State) : (afterAnswer s).reply = s.reply := by unfold afterAnswer; split <;> rfl
@[simp] theorem afterAnswer_pending (s : State) : (afterAnswer s).pending = s.pending := by unfold afterAnswer; split <;> rfl
@[simp] theorem afterAnswer_tIsOpenIn (s : State) : (afterAnswer s).tIsOpenIn = s.tIsOpenIn := by unfold afterAnswer; split <;> rfl
@[simp] theorem afterAnswer_tPortName (s : State) : (afterAnswer s).tPortName = s.tPortName := by unfold afterAnswer; split <;> rfl
@[simp] theorem afterAnswer_tLineBefore (s : State) : (afterAnswer s).tLineBefore = s.tLineBefore := by unfold afterAnswer; split <;> rfl

/-! ### The inputs, read once each -/

@[simp] theorem afterSample_tIsOpenIn (s : State) : (afterSample s).tIsOpenIn = s.tIsOpenIn.tail := by
  unfold afterSample; split <;> simp_all
@[simp] theorem afterSample_draws (s : State) :
    (afterSample s).draws = s.draws + s.tIsOpenIn.isEmpty.toNat := by
  unfold afterSample; split <;> simp_all
@[simp] theorem afterAnswer_tAnswers (s : State) : (afterAnswer s).tAnswers = s.tAnswers.tail := by
  unfold afterAnswer; split <;> simp_all
@[simp] theorem afterAnswer_draws (s : State) :
    (afterAnswer s).draws = s.draws + s.tAnswers.isEmpty.toNat := by
  unfold afterAnswer; split <;> simp_all

/-- The next answer depends on the answers given and on how many free values have been read, on nothing else. -/
theorem nextAnswer_congr {s t : State} (h : s.tAnswers = t.tAnswers) (hd : s.draws = t.draws) :
    nextAnswer s = nextAnswer t := by simp [nextAnswer, h, hd]

/-- The next sample depends on the samples given and on how many free values have been read, on nothing else. -/
theorem sampleIsOpen_congr {s t : State} (h : s.tIsOpenIn = t.tIsOpenIn) (hd : s.draws = t.draws) :
    sampleIsOpen s = sampleIsOpen t := by simp [sampleIsOpen, h, hd]

/-! ### answered -/

@[simp] theorem answered_lc (q : Prim) (a : Answer) (s : State) : (answered q a s).lc = s.lc := by simp [answered]
@[simp] theorem answered_released (q : Prim) (a : Answer) (s : State) : (answered q a s).released = s.released := by simp [answered]
@[simp] theorem answered_nameValid (q : Prim) (a : Answer) (s : State) : (answered q a s).nameValid = s.nameValid := by simp [answered]
@[simp] theorem answered_name (q : Prim) (a : Answer) (s : State) : (answered q a s).name = s.name := by simp [answered]
@[simp] theorem answered_ph (q : Prim) (a : Answer) (s : State) : (answered q a s).ph = s.ph := by simp [answered]
@[simp] theorem answered_lenR (q : Prim) (a : Answer) (s : State) : (answered q a s).lenR = s.lenR := by simp [answered]
@[simp] theorem answered_idx (q : Prim) (a : Answer) (s : State) : (answered q a s).idx = s.idx := by simp [answered]
@[simp] theorem answered_wp (q : Prim) (a : Answer) (s : State) : (answered q a s).wp = s.wp := by simp [answered]
@[simp] theorem answered_opLen (q : Prim) (a : Answer) (s : State) : (answered q a s).opLen = s.opLen := by simp [answered]
@[simp] theorem answered_opName (q : Prim) (a : Answer) (s : State) : (answered q a s).opName = s.opName := by simp [answered]
@[simp] theorem answered_pay (q : Prim) (a : Answer) (s : State) : (answered q a s).pay = s.pay := by simp [answered]
@[simp] theorem answered_pkt (q : Prim) (a : Answer) (s : State) : (answered q a s).pkt = s.pkt := by simp [answered]
@[simp] theorem answered_trace (q : Prim) (a : Answer) (s : State) : (answered q a s).trace = s.trace ++ [{ prim := q, answer := a }] := by simp [answered]
@[simp] theorem answered_reply (q : Prim) (a : Answer) (s : State) : (answered q a s).reply = s.reply := by simp [answered]
@[simp] theorem answered_pending (q : Prim) (a : Answer) (s : State) : (answered q a s).pending = s.pending := by simp [answered]
@[simp] theorem answered_tIsOpenIn (q : Prim) (a : Answer) (s : State) : (answered q a s).tIsOpenIn = s.tIsOpenIn := by simp [answered]
@[simp] theorem answered_tAnswers (q : Prim) (a : Answer) (s : State) : (answered q a s).tAnswers = s.tAnswers.tail := by simp [answered]
@[simp] theorem answered_tPortName (q : Prim) (a : Answer) (s : State) : (answered q a s).tPortName = s.tPortName := by simp [answered]
@[simp] theorem answered_tLineBefore (q : Prim) (a : Answer) (s : State) : (answered q a s).tLineBefore = s.tLineBefore := by simp [answered]
@[simp] theorem answered_draws (q : Prim) (a : Answer) (s : State) : (answered q a s).draws = s.draws + s.tAnswers.isEmpty.toNat := by simp [answered]

/-! ### report -/

@[simp] theorem report_lc (a : Answer) (s : State) : (report a s).lc = s.lc := by cases a <;> rfl
@[simp] theorem report_released (a : Answer) (s : State) : (report a s).released = s.released := by cases a <;> rfl
@[simp] theorem report_nameValid (a : Answer) (s : State) : (report a s).nameValid = s.nameValid := by cases a <;> rfl
@[simp] theorem report_name (a : Answer) (s : State) : (report a s).name = s.name := by cases a <;> rfl
@[simp] theorem report_ph (a : Answer) (s : State) : (report a s).ph = s.ph := by cases a <;> rfl
@[simp] theorem report_lenR (a : Answer) (s : State) : (report a s).lenR = s.lenR := by cases a <;> rfl
@[simp] theorem report_idx (a : Answer) (s : State) : (report a s).idx = s.idx := by cases a <;> rfl
@[simp] theorem report_wp (a : Answer) (s : State) : (report a s).wp = s.wp := by cases a <;> rfl
@[simp] theorem report_opLen (a : Answer) (s : State) : (report a s).opLen = s.opLen := by cases a <;> rfl
@[simp] theorem report_opName (a : Answer) (s : State) : (report a s).opName = s.opName := by cases a <;> rfl
@[simp] theorem report_pay (a : Answer) (s : State) : (report a s).pay = s.pay := by cases a <;> rfl
@[simp] theorem report_pkt (a : Answer) (s : State) : (report a s).pkt = s.pkt := by cases a <;> rfl
@[simp] theorem report_trace (a : Answer) (s : State) : (report a s).trace = s.trace := by cases a <;> rfl
@[simp] theorem report_pending (a : Answer) (s : State) : (report a s).pending = s.pending := by cases a <;> rfl
@[simp] theorem report_tIsOpenIn (a : Answer) (s : State) : (report a s).tIsOpenIn = s.tIsOpenIn := by cases a <;> rfl
@[simp] theorem report_tAnswers (a : Answer) (s : State) : (report a s).tAnswers = s.tAnswers := by cases a <;> rfl
@[simp] theorem report_tPortName (a : Answer) (s : State) : (report a s).tPortName = s.tPortName := by cases a <;> rfl
@[simp] theorem report_tLineBefore (a : Answer) (s : State) : (report a s).tLineBefore = s.tLineBefore := by cases a <;> rfl
@[simp] theorem report_draws (a : Answer) (s : State) : (report a s).draws = s.draws := by cases a <;> rfl

/-! ### finishOpen -/

@[simp] theorem finishOpen_released (a : Answer) (s : State) : (finishOpen a s).released = s.released := by cases a <;> rfl
@[simp] theorem finishOpen_ph (a : Answer) (s : State) : (finishOpen a s).ph = s.ph := by cases a <;> rfl
@[simp] theorem finishOpen_lenR (a : Answer) (s : State) : (finishOpen a s).lenR = s.lenR := by cases a <;> rfl
@[simp] theorem finishOpen_idx (a : Answer) (s : State) : (finishOpen a s).idx = s.idx := by cases a <;> rfl
@[simp] theorem finishOpen_wp (a : Answer) (s : State) : (finishOpen a s).wp = s.wp := by cases a <;> rfl
@[simp] theorem finishOpen_opLen (a : Answer) (s : State) : (finishOpen a s).opLen = s.opLen := by cases a <;> rfl
@[simp] theorem finishOpen_opName (a : Answer) (s : State) : (finishOpen a s).opName = s.opName := by cases a <;> rfl
@[simp] theorem finishOpen_pay (a : Answer) (s : State) : (finishOpen a s).pay = s.pay := by cases a <;> rfl
@[simp] theorem finishOpen_pkt (a : Answer) (s : State) : (finishOpen a s).pkt = s.pkt := by cases a <;> rfl
@[simp] theorem finishOpen_trace (a : Answer) (s : State) : (finishOpen a s).trace = s.trace := by cases a <;> rfl
@[simp] theorem finishOpen_pending (a : Answer) (s : State) : (finishOpen a s).pending = s.pending := by cases a <;> rfl
@[simp] theorem finishOpen_tIsOpenIn (a : Answer) (s : State) : (finishOpen a s).tIsOpenIn = s.tIsOpenIn := by cases a <;> rfl
@[simp] theorem finishOpen_tAnswers (a : Answer) (s : State) : (finishOpen a s).tAnswers = s.tAnswers := by cases a <;> rfl
@[simp] theorem finishOpen_tPortName (a : Answer) (s : State) : (finishOpen a s).tPortName = s.tPortName := by cases a <;> rfl
@[simp] theorem finishOpen_tLineBefore (a : Answer) (s : State) : (finishOpen a s).tLineBefore = s.tLineBefore := by cases a <;> rfl
@[simp] theorem finishOpen_draws (a : Answer) (s : State) : (finishOpen a s).draws = s.draws := by cases a <;> rfl

/-! ### The answers' two cases -/

@[simp] theorem report_reply (a : Answer) (s : State) :
    (report a s).reply = some (match a with | .ok => .ok | .fail e => .error (.transport e)) := by cases a <;> rfl
@[simp] theorem finishOpen_ok (s : State) : finishOpen .ok s =
    endWith .ok { s with lc := Lifecycle.opened.code, nameValid := true, name := s.opName } := rfl
@[simp] theorem finishOpen_fail (e : TErr) (s : State) : finishOpen (.fail e) s = endWith (.error (.transport e)) s := rfl
@[simp] theorem finishOpen_reply (a : Answer) (s : State) :
    (finishOpen a s).reply = some (match a with | .ok => .ok | .fail e => .error (.transport e)) := by cases a <;> rfl
@[simp] theorem endWith_endWith (r q : Reply) (s : State) : endWith r (endWith q s) = endWith r s := rfl

end Sys2Proof.Machine
end

