-- ==== Sys2Proof/Laws/Memory.lean ====
section
/-! SUPPORT. The laws of the two byte spaces: read after write, the canonical form is kept, and a run of bytes. -/

namespace Sys2Proof.Machine

@[simp] theorem Memory.read_nil (a : Nat) : Memory.read [] a = none := rfl

@[simp] theorem Memory.read_write_same (m : Memory) (a : Nat) (b : Byte) : (m.write a b).read a = some b := by
  induction m with
  | nil => simp [write, read]
  | cons c rest ih =>
    obtain ⟨k, v⟩ := c
    unfold write
    split
    · simp [read]
    · split
      · simp [read]
      · have : k ≠ a := fun h => by omega
        simp [read, this, ih]

theorem Memory.read_write_other (m : Memory) {a a' : Nat} (b : Byte) (h : a' ≠ a) :
    (m.write a b).read a' = m.read a' := by
  induction m with
  | nil => simp [write, read, Ne.symm h]
  | cons c rest ih =>
    obtain ⟨k, v⟩ := c
    unfold write
    split
    · simp [read, Ne.symm h]
    · split
      · rename_i hk
        subst hk
        simp [read, Ne.symm h]
      · simp only [read, ih]

theorem Memory.mem_keys_write (m : Memory) (a : Nat) (b : Byte) :
    ∀ k ∈ (m.write a b).map Prod.fst, k = a ∨ k ∈ m.map Prod.fst := by
  induction m with
  | nil => simp [write]
  | cons c rest ih =>
    obtain ⟨k, v⟩ := c
    unfold write
    split
    · simp
    · split
      · intro j hj
        simp only [List.map_cons, List.mem_cons] at hj ⊢
        tauto
      · intro j hj
        simp only [List.map_cons, List.mem_cons] at hj ⊢
        rcases hj with rfl | hj
        · exact .inr (.inl rfl)
        · exact (ih j hj).imp_right .inr

theorem Memory.wf_nil : Memory.wf [] := List.Pairwise.nil

theorem Memory.wf_write {m : Memory} (a : Nat) (b : Byte) (h : m.wf) : (m.write a b).wf := by
  induction m with
  | nil => simp [write, wf]
  | cons c rest ih =>
    obtain ⟨k, v⟩ := c
    simp only [wf, List.map_cons, List.pairwise_cons] at h
    unfold write
    split
    · simp only [wf, List.map_cons, List.pairwise_cons, List.mem_cons]
      refine ⟨?_, h⟩
      rintro j (rfl | hj)
      · assumption
      · exact lt_trans ‹_› (h.1 j hj)
    · split
      · rename_i hk
        subst hk
        simpa [wf] using h
      · simp only [wf, List.map_cons, List.pairwise_cons]
        refine ⟨fun j hj => ?_, ih h.2⟩
        rcases mem_keys_write rest a b j hj with rfl | hj
        · omega
        · exact h.1 j hj

theorem Memory.keys_ofBytes_ge (bs : List Byte) (base : Nat) :
    ∀ k ∈ (Memory.ofBytes base bs).map Prod.fst, base ≤ k := by
  induction bs generalizing base with
  | nil => simp [ofBytes]
  | cons b bs ih =>
    intro k hk
    simp only [ofBytes, List.map_cons, List.mem_cons] at hk
    rcases hk with rfl | hk
    · exact le_rfl
    · exact le_trans (Nat.le_succ _) (ih _ k hk)

theorem Memory.wf_ofBytes (bs : List Byte) (base : Nat) : (Memory.ofBytes base bs).wf := by
  induction bs generalizing base with
  | nil => exact wf_nil
  | cons b bs ih =>
    simp only [wf, ofBytes, List.map_cons, List.pairwise_cons]
    exact ⟨fun k hk => keys_ofBytes_ge bs _ k hk, ih _⟩

theorem Memory.read_ofBytes_low (bs : List Byte) {base a : Nat} (h : a < base) : (Memory.ofBytes base bs).read a = none := by
  induction bs generalizing base with
  | nil => rfl
  | cons b bs ih =>
    have : base ≠ a := by omega
    simp only [ofBytes, read, this, if_false]
    exact ih (Nat.lt_succ_of_lt h)

/-- A run of bytes reads back byte by byte, and nothing stands beyond it. -/
theorem Memory.read_ofBytes_add (bs : List Byte) (base i : Nat) : (Memory.ofBytes base bs).read (base + i) = bs[i]? := by
  induction bs generalizing base i with
  | nil => rfl
  | cons b bs ih =>
    cases i with
    | zero => simp [ofBytes, read]
    | succ i =>
      have : base ≠ base + (i + 1) := by omega
      simp only [ofBytes, read, this, if_false, List.getElem?_cons_succ]
      rw [← ih (base + 1) i]
      congr 1
      omega

@[simp] theorem Memory.read_ofBytes (bs : List Byte) (i : Nat) : (Memory.ofBytes 0 bs).read i = bs[i]? := by
  simpa using read_ofBytes_add bs 0 i

/-- Writing the byte just after a run lengthens the run. -/
theorem Memory.write_ofBytes_end (bs : List Byte) (base : Nat) (b : Byte) :
    (Memory.ofBytes base bs).write (base + bs.length) b = Memory.ofBytes base (bs ++ [b]) := by
  induction bs generalizing base with
  | nil => simp [ofBytes, write]
  | cons c bs ih =>
    have h1 : ¬ base + (bs.length + 1) < base := by omega
    have h2 : base + (bs.length + 1) ≠ base := by omega
    simp only [ofBytes, List.length_cons, write, h1, h2, if_false, List.cons_append]
    rw [← ih (base + 1)]
    congr 2
    omega

theorem Memory.readRange_congr {m m' : Memory} {base base' n : Nat}
    (h : ∀ i, i < n → m.read (base + i) = m'.read (base' + i)) : m.readRange base n = m'.readRange base' n := by
  induction n generalizing base base' with
  | zero => rfl
  | succ n ih =>
    have h0 := h 0 (Nat.succ_pos n)
    rw [Nat.add_zero, Nat.add_zero] at h0
    have h1 : m.readRange (base + 1) n = m'.readRange (base' + 1) n := by
      apply ih
      intro i hi
      have := h (i + 1) (Nat.succ_lt_succ hi)
      rw [Nat.add_assoc, Nat.add_assoc, Nat.add_comm 1 i]
      exact this
    simp only [readRange, h0, h1]

/-- A run of bytes reads back as a whole. -/
theorem Memory.readRange_of_read {m : Memory} {base : Nat} {bs : List Byte}
    (h : ∀ i, i < bs.length → m.read (base + i) = bs[i]?) : m.readRange base bs.length = some bs := by
  induction bs generalizing base with
  | nil => rfl
  | cons b bs ih =>
    have h0 := h 0 (Nat.succ_pos _)
    rw [Nat.add_zero] at h0
    have h1 : m.readRange (base + 1) bs.length = some bs := by
      apply ih
      intro i hi
      have := h (i + 1) (Nat.succ_lt_succ hi)
      rw [List.getElem?_cons_succ] at this
      rw [Nat.add_assoc, Nat.add_comm 1 i]
      exact this
    simp only [List.length_cons, readRange, h0, h1, List.getElem?_cons_zero]

/-- What a range that reads gives: each byte, and `n` of them. -/
theorem Memory.readRange_some {m : Memory} {base n : Nat} {bs : List Byte} (h : m.readRange base n = some bs) :
    bs.length = n ∧ ∀ i, i < n → m.read (base + i) = bs[i]? := by
  induction n generalizing base bs with
  | zero =>
    obtain rfl : [] = bs := by simpa [readRange] using h
    simp
  | succ n ih =>
    unfold readRange at h
    split at h
    · rename_i b cs hb hcs
      obtain rfl : b :: cs = bs := by simpa using h
      obtain ⟨hl, hr⟩ := ih hcs
      refine ⟨by simp [hl], fun i hi => ?_⟩
      cases i with
      | zero => simpa using hb
      | succ i =>
        rw [List.getElem?_cons_succ, ← hr i (by omega)]
        congr 1
        omega
    · cases h

/-- A range that does not read lacks a byte. -/
theorem Memory.readRange_none {m : Memory} {base n : Nat} (h : m.readRange base n = none) :
    ∃ i, i < n ∧ m.read (base + i) = none := by
  induction n generalizing base with
  | zero => cases h
  | succ n ih =>
    unfold readRange at h
    cases hb : m.read base with
    | none => exact ⟨0, Nat.succ_pos n, hb⟩
    | some b =>
      cases hr : m.readRange (base + 1) n with
      | none =>
        obtain ⟨i, hi, hn⟩ := ih hr
        refine ⟨i + 1, by omega, ?_⟩
        rwa [show base + (i + 1) = base + 1 + i by omega]
      | some bs => simp [hb, hr] at h

theorem Memory.readRange_ofBytes {bs : List Byte} {n : Nat} (h : n ≤ bs.length) :
    (Memory.ofBytes 0 bs).readRange 0 n = some (bs.take n) := by
  have hl : (bs.take n).length = n := by simp [h]
  have key : (Memory.ofBytes 0 bs).readRange 0 (bs.take n).length = some (bs.take n) := by
    apply readRange_of_read
    intro i hi
    rw [Nat.zero_add, read_ofBytes, List.getElem?_take_of_lt (by omega)]
  rwa [hl] at key

end Sys2Proof.Machine
end

