-- ==== Sys2Proof/Laws/Ops.lean ====
section
/-! SUPPORT. The shared operations: what each can do, once. -/

namespace Sys2Proof.Machine

/-! ## Sequencing -/

@[simp] theorem andThen_next (s : State) (go : State → Out) : andThen (.next s) go = go s := rfl
@[simp] theorem andThen_fault (f : Fault) (go : State → Out) : andThen (.fault f) go = .fault f := rfl
@[simp] theorem andThen_refused (r : Refusal) (go : State → Out) : andThen (.refused r) go = .refused r := rfl

theorem andThen_eq_next {o : Out} {go : State → Out} {t : State} (h : andThen o go = .next t) :
    ∃ s, o = .next s ∧ go s = .next t := by
  cases o with
  | next s => exact ⟨s, rfl, h⟩
  | fault f => cases h
  | refused r => cases h

/-! ## Issuing a primitive -/

theorem ask_of_answer {p : Prim} {s : State} {a : Answer} (go : Answer → State → Out) (h : nextAnswer s = some a) :
    ask p s go = go a (answered p a s) := by simp [ask, h]

theorem ask_of_silence {p : Prim} {s : State} (go : Answer → State → Out) (h : nextAnswer s = none) :
    ask p s go = .fault .transportNeverAnswers := by simp [ask, h]

/-- All that issuing a primitive can do on the way to a next state. -/
theorem ask_eq_next {p : Prim} {s t : State} {go : Answer → State → Out} (h : ask p s go = .next t) :
    ∃ a, nextAnswer s = some a ∧ go a (answered p a s) = .next t := by
  unfold ask at h
  split at h
  · cases h
  · rename_i a ha
    exact ⟨a, ha, h⟩

/-- A primitive on its own: the trace has gained it, and no register is written. -/
theorem primitive_eq_next {p : Prim} {s t : State} (h : primitive p s = .next t) :
    ∃ a, nextAnswer s = some a ∧ t = answered p a s := by
  obtain ⟨a, ha, ht⟩ := ask_eq_next h
  exact ⟨a, ha, by simpa using ht.symm⟩

/-! ## The transport's line under TC1 -/

theorem lineOpen_congr {s t : State} (ht : t.trace = s.trace) (hb : t.tLineBefore = s.tLineBefore) :
    lineOpen t = lineOpen s := by rw [lineOpen, lineOpen, ht, hb]

/-- What one exchange does to the line. -/
theorem lineOpen_of_append {s t : State} {x : Exchange} (ht : t.trace = s.trace ++ [x])
    (hb : t.tLineBefore = s.tLineBefore) : lineOpen t = lineAfter (lineOpen s) x := by
  rw [lineOpen, lineOpen, ht, hb, List.foldl_append, List.foldl_cons, List.foldl_nil]

@[simp] theorem lineOpen_answered (p : Prim) (a : Answer) (s : State) :
    lineOpen (answered p a s) = lineAfter (lineOpen s) { prim := p, answer := a } :=
  lineOpen_of_append (answered_trace p a s) (answered_tLineBefore p a s)

/-- A reset leaves the line as it was (R181). -/
@[simp] theorem lineOpen_resetFramer (s : State) : lineOpen (resetFramer s) = lineOpen s := rfl

/-! ## Operands -/

theorem nameFits_iff (n : PortName) : nameFits n = true ↔ 1 ≤ n.length ∧ n.length ≤ Config.nameMax := by
  match n with
  | [] => simp [nameFits]
  | [_] => simp [nameFits, nameShort, Config.nameMax]
  | _ :: _ :: rest => simp [nameFits, nameShort, Nat.succ_le_iff]

theorem withName_of_fits {n : PortName} (go : Out) (h : nameFits n = true) : withName n go = go := by
  simp only [nameFits, Bool.and_eq_true, Bool.not_eq_true'] at h
  simp [withName, h.1, h.2]

theorem withName_eq_next {n : PortName} {go : Out} {t : State} (h : withName n go = .next t) :
    nameFits n = true ∧ go = .next t := by
  unfold withName at h
  split at h
  · cases h
  · split at h
    · exact ⟨by simp_all [nameFits], h⟩
    · cases h

theorem withName_of_misfit {n : PortName} (go : Out) (h : nameFits n = false) :
    withName n go = .refused (if n = [] then .emptyPortName else .portNameTooLong) := by
  cases n with
  | nil => simp [withName]
  | cons b n =>
    have : nameShort (b :: n) = false := by simpa [nameFits] using h
    simp [withName, this]

/-! ## The lifecycle -/

@[simp] theorem lifecycle?_code (l : Lifecycle) : lifecycle? l.code = some l := by cases l <;> rfl

theorem lifecycle?_eq_some {lc : BitVec 2} {l : Lifecycle} (h : lifecycle? lc = some l) : lc = l.code := by
  revert h
  cases l <;> revert lc <;> decide

theorem lifecycle?_eq_none {lc : BitVec 2} : lifecycle? lc = none ↔ lc = 3 := by
  revert lc
  decide

theorem code_inj {l m : Lifecycle} : l.code = m.code ↔ l = m := by
  cases l <;> cases m <;> decide

@[simp] theorem sizeOk_iff (len : Len) : sizeOk len = true ↔ 24 ≤ len.toNat ∧ len.toNat ≤ 512 := by
  simp only [sizeOk, Bool.and_eq_true, decide_eq_true_eq]
  rfl

end Sys2Proof.Machine
end

