-- ==== Sys2Proof/Laws/Encoder.lean ====
section
/-! SUPPORT. The byte emitter: what a run of it does, phase by phase, and what building a packet does. -/

namespace Sys2Proof.Machine

theorem emitRun_succ (k : Nat) (s : State) : emitRun (k + 1) s = andThen (emitStep s) (emitRun k) := rfl

theorem emitRun_add (j k : Nat) (s : State) : emitRun (j + k) s = andThen (emitRun j s) (emitRun k) := by
  induction j generalizing s with
  | zero => simp [emitRun]
  | succ j ih =>
    rw [Nat.succ_add, emitRun_succ, emitRun_succ]
    cases emitStep s with
    | next t => simpa using ih t
    | fault f => rfl
    | refused r => rfl

/-- The five header bytes of the latched length (R45). -/
def header (len : Len) : List Byte :=
  [Config.startByte, Config.cmdSend, lenLo len, lenHi len, Config.subCmd]

theorem encodeFrame_eq (len : Len) (pay : List Byte) :
    encodeFrame len pay = header len ++ (pay.take len.toNat ++ [Config.endByte]) := by
  simp [encodeFrame, header]

/-- The state after the emitter's first `k` header steps (R85): phases `S_START` to `S_SUB`. -/
def afterHeader (s : State) : State :=
  { emitStart s with
    ph := if s.opLen = 0 then .fin else .payload, wp := 5, pkt := Memory.ofBytes 0 (header s.opLen) }

theorem emitRun_header (s : State) : emitRun 5 (emitStart s) = .next (afterHeader s) := rfl

/-- No header step is the last (R86). -/
theorem emitRun_header_busy (s : State) (k : Nat) (hk : k < 5) :
    ∃ t, emitRun k (emitStart s) = .next t ∧ t.ph ≠ .idle ∧ t.wp.toNat = k := by
  match k, hk with
  | 0, _ => exact ⟨_, rfl, by simp, rfl⟩
  | 1, _ => exact ⟨_, rfl, by simp, rfl⟩
  | 2, _ => exact ⟨_, rfl, by simp, rfl⟩
  | 3, _ => exact ⟨_, rfl, by simp, rfl⟩
  | 4, _ => exact ⟨_, rfl, by simp, rfl⟩

/-- In the middle of the payload phase: `i` bytes of it are out (R85). -/
structure InPayload (s : State) (bs : List Byte) (i : Nat) : Prop where
  ph : s.ph = .payload
  idx : s.idx.toNat = i
  wp : s.wp.toNat = 5 + i
  len : s.lenR.toNat = bs.length
  pkt : s.pkt = Memory.ofBytes 0 (header s.lenR ++ bs.take i)
  pay : ∀ j, j < bs.length → s.pay.read j = bs[j]?
  lt : i < bs.length

/-- One payload step that is not the last: one more byte is out. -/
theorem emitStep_payload {s : State} {bs : List Byte} {i : Nat} (h : InPayload s bs i) (hi : i + 1 < bs.length) :
    ∃ b, emitStep s = .next (putByte b .payload { s with idx := s.idx + 1 }) ∧
      InPayload (putByte b .payload { s with idx := s.idx + 1 }) bs (i + 1) := by
  obtain ⟨hph, hidx, hwp, hlen, hpkt, hpay, hlt⟩ := h
  have hb : s.pay.read s.idx.toNat = some bs[i] := by rw [hidx, hpay i hlt]; simp [hlt]
  have hne : s.idx ≠ s.lenR - 1 := by
    intro e
    have := congrArg BitVec.toNat e
    have h1 := s.lenR.isLt
    rw [BitVec.toNat_sub] at this
    simp at this
    omega
  refine ⟨bs[i], by simp only [emitStep, hph, hb]; rw [if_neg hne], ⟨rfl, ?_, ?_, hlen, ?_, hpay, hi⟩⟩
  · have h1 := s.lenR.isLt
    simp only [putByte_idx, BitVec.toNat_add]
    simp
    omega
  · have h1 := s.lenR.isLt
    simp only [putByte_wp, BitVec.toNat_add]
    simp
    omega
  · have hl : (header s.lenR ++ bs.take i).length = s.wp.toNat := by
      simp [header, hwp]
      omega
    have := Memory.write_ofBytes_end (header s.lenR ++ bs.take i) 0 bs[i]
    rw [Nat.zero_add, hl] at this
    simp only [putByte_pkt, putByte_lenR, hpkt]
    rw [this, List.append_assoc, List.take_append_getElem]

/-- Any number of payload steps short of the last. -/
theorem emitRun_payload {bs : List Byte} (m : Nat) {s : State} {i : Nat} (h : InPayload s bs i)
    (hm : i + m < bs.length) :
    ∃ t, emitRun m s = .next t ∧ InPayload t bs (i + m) ∧
      t = { s with ph := .payload, idx := t.idx, wp := t.wp, pkt := t.pkt } := by
  induction m generalizing s i with
  | zero =>
    refine ⟨s, rfl, h, ?_⟩
    rw [← h.ph]
  | succ m ih =>
    obtain ⟨b, hstep, hin⟩ := emitStep_payload h (by omega)
    obtain ⟨t, hrun, hint, heq⟩ := ih hin (by omega)
    refine ⟨t, ?_, ?_, ?_⟩
    · rw [emitRun_succ, hstep]
      exact hrun
    · rwa [show i + (m + 1) = i + 1 + m by omega]
    · rw [heq]
      rfl

/-- The last payload step (R85): the whole payload is out. -/
theorem emitStep_payload_last {s : State} {bs : List Byte} {i : Nat} (h : InPayload s bs i) (hi : i + 1 = bs.length) :
    emitStep s =
      .next { s with ph := .fin, wp := s.wp + 1, pkt := Memory.ofBytes 0 (header s.lenR ++ bs) } := by
  obtain ⟨hph, hidx, hwp, hlen, hpkt, hpay, hlt⟩ := h
  have hb : s.pay.read s.idx.toNat = some bs[i] := by rw [hidx, hpay i hlt]; simp [hlt]
  have heq : s.idx = s.lenR - 1 := by
    apply BitVec.eq_of_toNat_eq
    have h1 := s.lenR.isLt
    rw [BitVec.toNat_sub]
    simp
    omega
  have hl : (header s.lenR ++ bs.take i).length = s.wp.toNat := by
    simp [header, hwp]
    omega
  have hw := Memory.write_ofBytes_end (header s.lenR ++ bs.take i) 0 bs[i]
  rw [Nat.zero_add, hl, List.append_assoc, List.take_append_getElem, hi, List.take_length, ← hpkt] at hw
  simp only [emitStep, hph, hb]
  rw [if_pos heq, putByte, hw]

/-- The state once a packet is built (R85): the frame stands in PKT and the emitter is idle. -/
def built (s : State) (bs : List Byte) : State :=
  { s with
    lenR := s.opLen
    idx := if s.opLen = 0 then 0 else s.opLen - 1
    wp := BitVec.ofNat 17 (s.opLen.toNat + 6)
    ph := .idle
    pkt := Memory.ofBytes 0 (encodeFrame s.opLen bs) }

/-- The emitter once the header and the payload are out, before END. -/
def beforeEnd (s : State) (bs : List Byte) : State :=
  { built s bs with
    wp := BitVec.ofNat 17 (s.opLen.toNat + 5), ph := .fin, pkt := Memory.ofBytes 0 (header s.opLen ++ bs) }

theorem afterHeader_inPayload {s : State} {bs : List Byte} (hr : s.pay.readRange 0 s.opLen.toNat = some bs)
    (h0 : s.opLen ≠ 0) : InPayload (afterHeader s) bs 0 := by
  obtain ⟨hl, hget⟩ := Memory.readRange_some hr
  refine ⟨by simp only [afterHeader]; rw [if_neg h0], rfl, rfl, hl.symm, by simp [afterHeader], fun j hj => ?_, ?_⟩
  · have := hget j (by omega)
    rwa [Nat.zero_add] at this
  · rw [hl]
    rcases Nat.eq_zero_or_pos s.opLen.toNat with h | h
    · exact absurd (BitVec.eq_of_toNat_eq h) h0
    · exact h

theorem emitRun_beforeEnd {s : State} {bs : List Byte} (hr : s.pay.readRange 0 s.opLen.toNat = some bs) :
    emitRun (s.opLen.toNat + 5) (emitStart s) = .next (beforeEnd s bs) := by
  have hl := (Memory.readRange_some hr).1
  rw [Nat.add_comm, emitRun_add, emitRun_header, andThen_next]
  by_cases h0 : s.opLen = 0
  · have hbs : bs = [] := by
      apply List.eq_nil_of_length_eq_zero
      rw [hl, h0]
      rfl
    subst hbs
    simp [h0, emitRun, afterHeader, beforeEnd, built, emitStart]
  · have hin := afterHeader_inPayload hr h0
    have hpos : 0 < bs.length := hin.lt
    obtain ⟨m, hm⟩ : ∃ m, s.opLen.toNat = m + 1 := ⟨s.opLen.toNat - 1, by omega⟩
    obtain ⟨t, hrun, hint, heq⟩ := emitRun_payload m hin (by omega)
    rw [hm, emitRun_add, hrun, andThen_next, emitRun_succ, emitStep_payload_last hint (by omega)]
    have hlenR : t.lenR = s.opLen := by rw [heq]; rfl
    have hidx : t.idx = s.opLen - 1 := by
      apply BitVec.eq_of_toNat_eq
      have h1 := s.opLen.isLt
      have h2 := hint.idx
      rw [BitVec.toNat_sub]
      simp
      omega
    have hwp : t.wp + 1 = BitVec.ofNat 17 (s.opLen.toNat + 5) := by
      apply BitVec.eq_of_toNat_eq
      have h1 := s.opLen.isLt
      have h2 := hint.wp
      rw [BitVec.toNat_add]
      simp
      omega
    simp only [emitRun, andThen_next, hlenR, hwp]
    congr 1
    rw [heq, hidx]
    simp only [beforeEnd, built, afterHeader, emitStart, h0, if_false]

/-- What building a packet does when the emitter is idle and the payload is in place: the frame of the payload
stands in PKT, and only the emitter's own registers have changed (R80, R85). -/
theorem buildPacket_of_payload {s : State} {bs : List Byte} (hi : s.ph = .idle)
    (hr : s.pay.readRange 0 s.opLen.toNat = some bs) : buildPacket s = .next (built s bs) := by
  have hl := (Memory.readRange_some hr).1
  have hend : emitStep (beforeEnd s bs) = .next (built s bs) := by
    have h1 := s.opLen.isLt
    have hw := Memory.write_ofBytes_end (header s.opLen ++ bs) 0 Config.endByte
    have hlen : 0 + (header s.opLen ++ bs).length = (BitVec.ofNat 17 (s.opLen.toNat + 5)).toNat := by
      simp [header, hl]
      omega
    have hwp : BitVec.ofNat 17 (s.opLen.toNat + 5) + 1 = BitVec.ofNat 17 (s.opLen.toNat + 6) := by
      apply BitVec.eq_of_toNat_eq
      rw [BitVec.toNat_add]
      simp
    rw [hlen] at hw
    have hf : encodeFrame s.opLen bs = header s.opLen ++ bs ++ [Config.endByte] := by
      rw [encodeFrame_eq, ← hl, List.take_length, List.append_assoc]
    simp only [emitStep, beforeEnd, putByte, hw, hwp, built, hf]
  rw [buildPacket, if_pos hi]
  show emitRun (s.opLen.toNat + 5 + 1) (emitStart s) = _
  rw [emitRun_add, emitRun_beforeEnd hr, andThen_next, emitRun_succ, hend]
  rfl

theorem buildPacket_busy {s : State} (h : s.ph ≠ .idle) : buildPacket s = .fault .emitterBusy := by
  simp [buildPacket, h]

/-! ## What building leaves, field by field -/

@[simp] theorem built_lc (s : State) (bs : List Byte) : (built s bs).lc = s.lc := rfl
@[simp] theorem built_released (s : State) (bs : List Byte) : (built s bs).released = s.released := rfl
@[simp] theorem built_nameValid (s : State) (bs : List Byte) : (built s bs).nameValid = s.nameValid := rfl
@[simp] theorem built_name (s : State) (bs : List Byte) : (built s bs).name = s.name := rfl
@[simp] theorem built_ph (s : State) (bs : List Byte) : (built s bs).ph = .idle := rfl
@[simp] theorem built_lenR (s : State) (bs : List Byte) : (built s bs).lenR = s.opLen := rfl
@[simp] theorem built_opLen (s : State) (bs : List Byte) : (built s bs).opLen = s.opLen := rfl
@[simp] theorem built_opName (s : State) (bs : List Byte) : (built s bs).opName = s.opName := rfl
@[simp] theorem built_pay (s : State) (bs : List Byte) : (built s bs).pay = s.pay := rfl
@[simp] theorem built_pkt (s : State) (bs : List Byte) :
    (built s bs).pkt = Memory.ofBytes 0 (encodeFrame s.opLen bs) := rfl
@[simp] theorem built_trace (s : State) (bs : List Byte) : (built s bs).trace = s.trace := rfl
@[simp] theorem built_reply (s : State) (bs : List Byte) : (built s bs).reply = s.reply := rfl
@[simp] theorem built_pending (s : State) (bs : List Byte) : (built s bs).pending = s.pending := rfl
@[simp] theorem built_tIsOpenIn (s : State) (bs : List Byte) : (built s bs).tIsOpenIn = s.tIsOpenIn := rfl
@[simp] theorem built_tAnswers (s : State) (bs : List Byte) : (built s bs).tAnswers = s.tAnswers := rfl
@[simp] theorem built_tPortName (s : State) (bs : List Byte) : (built s bs).tPortName = s.tPortName := rfl
@[simp] theorem built_tLineBefore (s : State) (bs : List Byte) : (built s bs).tLineBefore = s.tLineBefore := rfl
@[simp] theorem built_draws (s : State) (bs : List Byte) : (built s bs).draws = s.draws := rfl

theorem encodeFrame_length {len : Len} {pay : List Byte} (h : len.toNat ≤ pay.length) :
    (encodeFrame len pay).length = len.toNat + 6 := by
  simp [encodeFrame, h]

/-- The complete packet is the frame (R85). -/
theorem packetBytes_built {s : State} {bs : List Byte} (hl : bs.length = s.opLen.toNat) :
    packetBytes (built s bs) = some (encodeFrame s.opLen bs) := by
  have h1 := s.opLen.isLt
  have h2 := encodeFrame_length (len := s.opLen) (pay := bs) hl.ge
  have hw : (built s bs).wp.toNat = (encodeFrame s.opLen bs).length := by
    rw [h2]
    simp [built]
    omega
  rw [packetBytes, hw, built_pkt, Memory.readRange_ofBytes le_rfl, List.take_length]

/-! ## A payload that lacks a byte (R33) -/

/-- In the payload phase the emitter faults at the first byte that nothing has written. -/
theorem emitRun_missing {j : Nat} (m : Nat) {s : State} (hph : s.ph = .payload) (hij : s.idx.toNat ≤ j)
    (hj : j < s.lenR.toNat) (hm : j < s.idx.toNat + m) (hr : s.pay.read j = none) :
    emitRun m s = .fault .unspecifiedRead := by
  induction m generalizing s with
  | zero => omega
  | succ m ih =>
    rw [emitRun_succ]
    cases hb : s.pay.read s.idx.toNat with
    | none => simp [emitStep, hph, hb]
    | some b =>
      have hne : s.idx.toNat ≠ j := by
        rintro rfl
        rw [hr] at hb
        cases hb
      have hlast : s.idx ≠ s.lenR - 1 := by
        intro e
        have := congrArg BitVec.toNat e
        have h1 := s.lenR.isLt
        rw [BitVec.toNat_sub] at this
        simp at this
        omega
      have hi : (s.idx + 1).toNat = s.idx.toNat + 1 := by
        have h1 := s.lenR.isLt
        rw [BitVec.toNat_add]
        simp
        omega
      simp only [emitStep, hph, hb]
      rw [if_neg hlast, andThen_next]
      exact ih rfl (by show (s.idx + 1).toNat ≤ j; omega) hj (by show j < (s.idx + 1).toNat + m; omega) hr

theorem buildPacket_missing {s : State} {j : Nat} (hi : s.ph = .idle) (hj : j < s.opLen.toNat)
    (hr : s.pay.read j = none) : buildPacket s = .fault .unspecifiedRead := by
  have h0 : s.opLen ≠ 0 := by
    intro e
    rw [e] at hj
    exact absurd hj (Nat.not_lt_zero j)
  rw [buildPacket, if_pos hi, Nat.add_comm]
  show emitRun (5 + 1 + s.opLen.toNat) (emitStart s) = _
  rw [Nat.add_assoc, emitRun_add, emitRun_header, andThen_next]
  refine emitRun_missing (j := j) _ ?_ (Nat.zero_le j) hj ?_ hr
  · simp only [afterHeader]
    rw [if_neg h0]
  · show j < 0 + (1 + s.opLen.toNat)
    omega

/-- Building a packet, in full: what it answers in every state. -/
theorem buildPacket_eq (s : State) :
    buildPacket s =
      if s.ph = .idle then
        match s.pay.readRange 0 s.opLen.toNat with
        | some bs => .next (built s bs)
        | none => .fault .unspecifiedRead
      else .fault .emitterBusy := by
  by_cases hi : s.ph = .idle
  · rw [if_pos hi]
    cases hr : s.pay.readRange 0 s.opLen.toNat with
    | some bs => exact buildPacket_of_payload hi hr
    | none =>
      obtain ⟨j, hj, hn⟩ := Memory.readRange_none hr
      rw [Nat.zero_add] at hn
      exact buildPacket_missing hi hj hn
  · rw [if_neg hi]
    exact buildPacket_busy hi

/-- All that building a packet can do on the way to a next state. -/
theorem buildPacket_eq_next {s t : State} (h : buildPacket s = .next t) :
    ∃ bs, s.ph = .idle ∧ s.pay.readRange 0 s.opLen.toNat = some bs ∧ bs.length = s.opLen.toNat ∧ t = built s bs := by
  rw [buildPacket_eq] at h
  split at h
  · rename_i hi
    cases hr : s.pay.readRange 0 s.opLen.toNat with
    | none => simp [hr] at h
    | some bs =>
      simp only [hr] at h
      exact ⟨bs, hi, rfl, (Memory.readRange_some hr).1, by injection h with h; exact h.symm⟩
  · cases h

/-! ## The latched payload -/

theorem readRange_latched {len : Len} {pay : List Byte} (h : len.toNat ≤ pay.length) :
    (Memory.ofBytes 0 pay).readRange 0 len.toNat = some (pay.take len.toNat) := Memory.readRange_ofBytes h

theorem readRange_latched_some {len : Len} {pay bs : List Byte}
    (h : (Memory.ofBytes 0 pay).readRange 0 len.toNat = some bs) : len.toNat ≤ pay.length ∧ bs = pay.take len.toNat := by
  obtain ⟨hl, hget⟩ := Memory.readRange_some h
  have hle : len.toNat ≤ pay.length := by
    by_contra hc
    have := hget pay.length (by omega)
    rw [Nat.zero_add, Memory.read_ofBytes] at this
    simp at this
    omega
  refine ⟨hle, ?_⟩
  rw [readRange_latched hle] at h
  injection h with h
  exact h.symm

theorem encodeFrame_take (len : Len) (pay : List Byte) : encodeFrame len (pay.take len.toNat) = encodeFrame len pay := by
  simp [encodeFrame]

end Sys2Proof.Machine
end

