-- ==== Sys2Proof/Laws/Exec.lean ====
section
/-! SUPPORT. For each meaning, all that it can do when it answers a next state, said once; and what WRITE does, path
by path. -/

namespace Sys2Proof.Machine

/-! ## OPEN (R101) -/

/-- OPEN's two ways to a next state: it is refused before any primitive, or T_OPEN is issued and answered. -/
theorem execHostOpen_eq_next {n : PortName} {s t : State} (h : execHostOpen n s = .next t) :
    nameFits n = true ∧ ∃ l, lifecycle? s.lc = some l ∧
      ((mayOpen Config.reopenAfterClose s.released l = false ∧ t = raise .alreadyOpen (latchName n s)) ∨
       (mayOpen Config.reopenAfterClose s.released l = true ∧ ∃ a, nextAnswer s = some a ∧
          t = finishOpen a (answered (.openPort n Config.serial) a (latchName n s)))) := by
  obtain ⟨hn, h⟩ := withName_eq_next h
  refine ⟨hn, ?_⟩
  simp only [latchName_lc, latchName_released, latchName_opName] at h
  cases hl : lifecycle? s.lc with
  | none => simp [hl] at h
  | some l =>
    refine ⟨l, rfl, ?_⟩
    cases hm : mayOpen Config.reopenAfterClose s.released l with
    | true =>
      simp only [hl, hm, if_true] at h
      obtain ⟨a, ha, ht⟩ := ask_eq_next h
      exact .inr ⟨rfl, a, ha, by injection ht with ht; exact ht.symm⟩
    | false =>
      simp only [hl, hm, Bool.false_eq_true, if_false] at h
      exact .inl ⟨rfl, by injection h with h; exact h.symm⟩

/-- OPEN, where the lifecycle permits it (R101). -/
theorem execHostOpen_asks {n : PortName} {s : State} {l : Lifecycle} {a : Answer} (hn : nameFits n = true)
    (hl : lifecycle? s.lc = some l) (hm : mayOpen Config.reopenAfterClose s.released l = true)
    (ha : nextAnswer s = some a) :
    execHostOpen n s = .next (finishOpen a (answered (.openPort n Config.serial) a (latchName n s))) := by
  have ha' : nextAnswer (latchName n s) = some a := ha
  rw [execHostOpen, openWith, latchName_opName, withName_of_fits _ hn]
  simp [hl, hm, ask_of_answer _ ha']

/-- OPEN, where the lifecycle does not permit it (R101). -/
theorem execHostOpen_refuses {n : PortName} {s : State} {l : Lifecycle} (hn : nameFits n = true)
    (hl : lifecycle? s.lc = some l) (hm : mayOpen Config.reopenAfterClose s.released l = false) :
    execHostOpen n s = .next (raise .alreadyOpen (latchName n s)) := by
  rw [execHostOpen, openWith, latchName_opName, withName_of_fits _ hn]
  simp [hl, hm]

/-! ## WRITE (R102) -/

/-- The state in which WRITE builds its packet: operands latched, `t_is_open` sampled. -/
def writing (len : Len) (pay : List Byte) (s : State) : State := afterSample (latchPayload len pay s)

@[simp] theorem sampleIsOpen_latchPayload (len : Len) (pay : List Byte) (s : State) :
    sampleIsOpen (latchPayload len pay s) = sampleIsOpen s := rfl

@[simp] theorem nextAnswer_built (s : State) (bs : List Byte) : nextAnswer (built s bs) = nextAnswer s := rfl

theorem execHostWrite_badSize {len : Len} {pay : List Byte} {s : State} (h : sizeOk len = false) :
    execHostWrite len pay s = .next (raise .payloadSize (dropPayload (latchPayload len pay s))) := by
  simp [execHostWrite, writeLatched, h]

theorem execHostWrite_notOpen {len : Len} {pay : List Byte} {s : State} {l : Lifecycle} (h : sizeOk len = true)
    (hl : lifecycle? s.lc = some l) (hm : mayWrite (sampleIsOpen s) l = false) :
    execHostWrite len pay s = .next (raise .notOpen (dropPayload (writing len pay s))) := by
  simp [execHostWrite, writeLatched, writeSized, h, hl, hm, writing]

/-- WRITE's last step, on the built packet. -/
theorem transmit_built {s : State} {bs : List Byte} (hl : bs.length = s.opLen.toNat) :
    transmit (built s bs) =
      ask (.write (encodeFrame s.opLen bs)) (built s bs) fun a t => .next (report a (dropPacket (dropPayload t))) := by
  rw [transmit, packetBytes_built hl]

/-- The state a transmitted WRITE ends in (R102). -/
def written (len : Len) (pay : List Byte) (a : Answer) (s : State) : State :=
  report a (dropPacket (dropPayload (answered (.write (encodeFrame len pay)) a
    (built (writing len pay s) (pay.take len.toNat)))))

theorem execHostWrite_sends {len : Len} {pay : List Byte} {s : State} {l : Lifecycle} {a : Answer}
    (h : sizeOk len = true) (hl : lifecycle? s.lc = some l) (hm : mayWrite (sampleIsOpen s) l = true)
    (hi : s.ph = .idle) (hp : len.toNat ≤ pay.length) (ha : nextAnswer (writing len pay s) = some a) :
    execHostWrite len pay s = .next (written len pay a s) := by
  have hb : buildPacket (writing len pay s) = .next (built (writing len pay s) (pay.take len.toNat)) :=
    buildPacket_of_payload (by simpa [writing] using hi) (by simpa [writing] using readRange_latched hp)
  have hlen : (pay.take len.toNat).length = (writing len pay s).opLen.toNat := by simp [writing, hp]
  have hop : (writing len pay s).opLen = len := by simp [writing]
  have hw : writeSized (latchPayload len pay s) = andThen (buildPacket (writing len pay s)) transmit := by
    simp [writeSized, hl, hm, writing]
  rw [execHostWrite, writeLatched, latchPayload_opLen, if_pos h, hw, hb, andThen_next, transmit_built hlen, hop,
    encodeFrame_take, ask_of_answer _ (by simpa using ha)]
  rfl

/-- WRITE past its checks, in full: what it answers whatever the emitter, the payload and the transport do. -/
theorem execHostWrite_passed {len : Len} {pay : List Byte} {s : State} {l : Lifecycle}
    (h : sizeOk len = true) (hl : lifecycle? s.lc = some l) (hm : mayWrite (sampleIsOpen s) l = true) :
    execHostWrite len pay s =
      if s.ph = .idle then
        if len.toNat ≤ pay.length then
          match nextAnswer (writing len pay s) with
          | some a => .next (written len pay a s)
          | none => .fault .transportNeverAnswers
        else .fault .unspecifiedRead
      else .fault .emitterBusy := by
  have hw : execHostWrite len pay s = andThen (buildPacket (writing len pay s)) transmit := by
    simp [execHostWrite, writeLatched, writeSized, h, hl, hm, writing]
  by_cases hi : s.ph = .idle
  · rw [if_pos hi]
    by_cases hp : len.toNat ≤ pay.length
    · rw [if_pos hp]
      cases ha : nextAnswer (writing len pay s) with
      | some a => exact execHostWrite_sends h hl hm hi hp ha
      | none =>
        have hb : buildPacket (writing len pay s) = .next (built (writing len pay s) (pay.take len.toNat)) :=
          buildPacket_of_payload (by simpa [writing] using hi) (by simpa [writing] using readRange_latched hp)
        have hlen : (pay.take len.toNat).length = (writing len pay s).opLen.toNat := by simp [writing, hp]
        rw [hw, hb, andThen_next, transmit_built hlen, ask_of_silence _ (by simpa using ha)]
    · rw [if_neg hp, hw, buildPacket_missing (j := pay.length) (by simpa [writing] using hi)
        (by simp [writing]; omega) (by simp [writing])]
      rfl
  · rw [if_neg hi, hw, buildPacket_busy (by simpa [writing] using hi)]
    rfl

/-- WRITE's three ways to a next state (R102). -/
theorem execHostWrite_eq_next {len : Len} {pay : List Byte} {s t : State} (h : execHostWrite len pay s = .next t) :
    (sizeOk len = false ∧ t = raise .payloadSize (dropPayload (latchPayload len pay s))) ∨
    (sizeOk len = true ∧ ∃ l, lifecycle? s.lc = some l ∧
      ((mayWrite (sampleIsOpen s) l = false ∧ t = raise .notOpen (dropPayload (writing len pay s))) ∨
       (mayWrite (sampleIsOpen s) l = true ∧ s.ph = .idle ∧ len.toNat ≤ pay.length ∧
         ∃ a, nextAnswer (writing len pay s) = some a ∧ t = written len pay a s))) := by
  cases hs : sizeOk len with
  | false =>
    rw [execHostWrite_badSize hs] at h
    exact .inl ⟨rfl, by injection h with h; exact h.symm⟩
  | true =>
    refine .inr ⟨rfl, ?_⟩
    cases hl : lifecycle? s.lc with
    | none => simp [execHostWrite, writeLatched, writeSized, hs, hl] at h
    | some l =>
      refine ⟨l, rfl, ?_⟩
      cases hm : mayWrite (sampleIsOpen s) l with
      | false =>
        rw [execHostWrite_notOpen hs hl hm] at h
        exact .inl ⟨rfl, by injection h with h; exact h.symm⟩
      | true =>
        refine .inr ⟨rfl, ?_⟩
        rw [execHostWrite_passed hs hl hm] at h
        split at h
        · rename_i hi
          split at h
          · rename_i hp
            cases ha : nextAnswer (writing len pay s) with
            | none => simp [ha] at h
            | some a =>
              simp only [ha] at h
              exact ⟨hi, hp, a, rfl, by injection h with h; exact h.symm⟩
          · cases h
        · cases h

/-! ## CLOSE (R103) -/

theorem execHostClose_eq_next {s t : State} (h : execHostClose s = .next t) :
    (s.released = true ∧ t = returnOk s) ∨
    (s.released = false ∧ ∃ l a, lifecycle? s.lc = some l ∧ nextAnswer s = some a ∧
      t = report a { answered .close a s with lc := (closedFrom l).code }) := by
  unfold execHostClose at h
  cases hr : s.released with
  | true => exact .inl ⟨rfl, by simpa [hr] using h.symm⟩
  | false =>
    refine .inr ⟨rfl, ?_⟩
    cases hl : lifecycle? s.lc with
    | none => simp [hr, hl] at h
    | some l =>
      simp only [hr, hl, Bool.false_eq_true, if_false] at h
      obtain ⟨a, ha, ht⟩ := ask_eq_next h
      exact ⟨l, a, rfl, ha, by injection ht with ht; exact ht.symm⟩

theorem execHostClose_asks {s : State} {l : Lifecycle} {a : Answer} (hr : s.released = false)
    (hl : lifecycle? s.lc = some l) (ha : nextAnswer s = some a) :
    execHostClose s = .next (report a { answered .close a s with lc := (closedFrom l).code }) := by
  simp [execHostClose, hr, hl, ask_of_answer _ ha]

/-! ## DISPOSE (R105) -/

/-- The state a first DISPOSE ends in (R105). -/
def disposed (r1 r2 : Answer) (s : State) : State :=
  report (firstFailure r1 r2)
    { answered .dispose r2 (answered .close r1 s) with lc := Lifecycle.closed.code, released := true }

theorem execHostDispose_eq_next {s t : State} (h : execHostDispose s = .next t) :
    (s.released = true ∧ t = returnOk s) ∨
    (s.released = false ∧ ∃ r1 r2, nextAnswer s = some r1 ∧ nextAnswer (answered .close r1 s) = some r2 ∧
      t = disposed r1 r2 s) := by
  unfold execHostDispose at h
  cases hr : s.released with
  | true => exact .inl ⟨rfl, by simpa [hr] using h.symm⟩
  | false =>
    refine .inr ⟨rfl, ?_⟩
    simp only [hr, Bool.false_eq_true, if_false] at h
    obtain ⟨r1, h1, h⟩ := ask_eq_next h
    obtain ⟨r2, h2, ht⟩ := ask_eq_next h
    exact ⟨r1, r2, h1, h2, by injection ht with ht; exact ht.symm⟩

theorem execHostDispose_asks {s : State} {r1 r2 : Answer} (hr : s.released = false) (h1 : nextAnswer s = some r1)
    (h2 : nextAnswer (answered .close r1 s) = some r2) : execHostDispose s = .next (disposed r1 r2 s) := by
  simp [execHostDispose, hr, ask_of_answer _ h1, ask_of_answer _ h2, disposed]

/-! ## SEND_PACKET (R80) and the primitives (R131 to R134) -/

theorem execSendPacket_builds {len : Len} {pay : List Byte} {s : State} (hi : s.ph = .idle)
    (hp : len.toNat ≤ pay.length) :
    execSendPacket len pay s = .next (dropPayload (built (latchPayload len pay s) (pay.take len.toNat))) := by
  rw [execSendPacket, buildPacket_of_payload (s := latchPayload len pay s) hi (by simpa using readRange_latched hp)]
  rfl

theorem execSendPacket_eq_next {len : Len} {pay : List Byte} {s t : State} (h : execSendPacket len pay s = .next t) :
    s.ph = .idle ∧ len.toNat ≤ pay.length ∧
      t = dropPayload (built (latchPayload len pay s) (pay.take len.toNat)) := by
  obtain ⟨u, hu, ht⟩ := andThen_eq_next h
  obtain ⟨bs, hph, hrd, -, rfl⟩ := buildPacket_eq_next hu
  obtain ⟨hp, rfl⟩ : len.toNat ≤ pay.length ∧ bs = pay.take len.toNat := readRange_latched_some (by simpa using hrd)
  exact ⟨hph, hp, by injection ht with ht; exact ht.symm⟩

theorem execTOpen_eq_next {n : PortName} {s t : State} (h : execTOpen n s = .next t) :
    nameFits n = true ∧ ∃ a, nextAnswer s = some a ∧ t = answered (.openPort n Config.serial) a s := by
  obtain ⟨hn, h⟩ := withName_eq_next h
  exact ⟨hn, primitive_eq_next h⟩

end Sys2Proof.Machine
end

