-- ==== Sys2Proof/Laws/PerInstr.lean ====
section
/-! SUPPORT. Facts about every instruction as syntax, one lemma per constructor. Family RoundTrip: decoding the
encoding of a well-formed instruction gives it back. -/

namespace Sys2Proof.Laws.RoundTrip

/-- Decoding what a well-formed instruction encodes to gives it back, every operand with it. -/
def Statement (i : Instr) : Prop := i.wf = true → decode (encode i) = .ok i

theorem hostOpen (n : PortName) : Statement (.hostOpen n) := fun _ => rfl
theorem hostWrite (len : Len) (pay : List Byte) : Statement (.hostWrite len pay) := fun _ => rfl
theorem hostClose : Statement .hostClose := fun _ => rfl
theorem hostName : Statement .hostName := fun _ => rfl
theorem hostDispose : Statement .hostDispose := fun _ => rfl
theorem reserved0 : Statement .reserved0 := fun _ => rfl
theorem reserved6 : Statement .reserved6 := fun _ => rfl
theorem reserved7 : Statement .reserved7 := fun _ => rfl

theorem sendPacket (len : Len) (pay : List Byte) : Statement (.sendPacket len pay) := by
  intro h
  have hl : pay.length = len.toNat := by
    by_contra hc
    simp [Instr.wf, Instr.wfError, hc] at h
  simp [decode, encode, decodeWire, parseFrame_encodeFrame hl]

theorem tOpen (n : PortName) : Statement (.tOpen n) := fun _ => rfl

theorem tWrite (bytes : List Byte) : Statement (.tWrite bytes) := by
  intro h
  unfold Instr.wf Instr.wfError at h
  show decodePrim { primPlain 2 with bytes := bytes } = _
  unfold decodePrim
  simp only [primPlain]
  cases hp : parseFrame bytes with
  | error e => simp [hp] at h
  | ok lp =>
    have hs : sizeOk lp.1 = true := by
      by_contra hc
      simp [hp, hc] at h
    simp [hs]

theorem tClose : Statement .tClose := fun _ => rfl
theorem tDispose : Statement .tDispose := fun _ => rfl

end Sys2Proof.Laws.RoundTrip
end

