-- ==== Sys2Proof/Laws/Step.lean ====
section
/-! SUPPORT. What a step can do, once: it waits, it resets, or it runs a host operation or the encoder; and the few
facts about the lifecycle tests that claims about operations need. -/

namespace Sys2Proof.Machine

/-- An instruction that a step can run: one of the command port's, or the encoder's with its whole payload. -/
inductive Reached : Instr → Prop where
  | open' (n : PortName) : Reached (.hostOpen n)
  | write (len : Len) (pay : List Byte) : Reached (.hostWrite len pay)
  | close : Reached .hostClose
  | name : Reached .hostName
  | dispose : Reached .hostDispose
  | code0 : Reached .reserved0
  | code6 : Reached .reserved6
  | code7 : Reached .reserved7
  | packet (len : Len) (pay : List Byte) (h : pay.length = len.toNat) : Reached (.sendPacket len pay)

theorem reached_decodeHost (w : HostWord) : Reached (decodeHost w) := by
  unfold decodeHost
  split <;> constructor

/-- All that a step can do on the way to a next state (R6). -/
theorem step_eq_next {s t : State} (h : step s = .next t) :
    (s.pending = [] ∧ t = s) ∨
    (∃ rest, s.pending = .reset :: rest ∧ t = resetFramer { s with pending := rest }) ∨
    ∃ r rest i, s.pending = r :: rest ∧ r ≠ .reset ∧ Reached i ∧ exec i { s with pending := rest } = .next t := by
  unfold step at h
  split at h
  · rename_i hp
    exact .inl ⟨hp, by injection h with h; exact h.symm⟩
  · rename_i r rest hp
    cases r with
    | reset => exact .inr (.inl ⟨rest, hp, by simpa [Request.encoded] using h.symm⟩)
    | command w =>
      exact .inr (.inr ⟨_, rest, decodeHost w, hp, by simp, reached_decodeHost w, h⟩)
    | packet f =>
      cases hf : parseFrame f with
      | error e => simp [Request.encoded, decode, decodeWire, hf] at h
      | ok lp =>
        simp only [Request.encoded, decode, decodeWire, hf] at h
        exact .inr (.inr ⟨_, rest, _, hp, by simp, .packet lp.1 lp.2 (parseFrame_eq_ok hf).1, h⟩)

theorem lifecycle?_of_legal {lc : BitVec 2} (h : lc ≠ 3) : ∃ l, lifecycle? lc = some l := by
  cases hl : lifecycle? lc with
  | none => exact absurd (lifecycle?_eq_none.1 hl) h
  | some l => exact ⟨l, rfl⟩

/-- WRITE's state test, by the code of `lc` (R102 step 2). -/
theorem mayWrite_iff {lc : BitVec 2} {l : Lifecycle} (b : Bool) (hl : lifecycle? lc = some l) :
    mayWrite b l = true ↔ lc = 1 ∧ b = true := by
  have := lifecycle?_eq_some hl
  cases l <;> simp [this, mayWrite, Lifecycle.code]

/-- OPEN's lifecycle tests, by the code of `lc` (R101). -/
theorem mayOpen_iff {lc : BitVec 2} {l : Lifecycle} (reopen released : Bool) (hl : lifecycle? lc = some l) :
    mayOpen reopen released l = true ↔ lc = 0 ∨ (lc = 2 ∧ released = false ∧ reopen = true) := by
  have := lifecycle?_eq_some hl
  cases l <;> simp [this, mayOpen, Lifecycle.code]

end Sys2Proof.Machine
end

