-- ==== Sys2Proof/Tests/Slice0.lean ====
section
/-! SUPPORT. Tests: decoding of written-out words, ill-formed terms refused, single steps against the spec's vectors
(95_test_vectors.md), and for each statement with hypotheses a state and operands that meet them. Expected values are
the spec's; a port name is one byte here, because NAME_MAX is open. -/

namespace Sys2Proof.Tests

open Sys2Proof.Machine Sys2Proof.Claims

/-! ## Small data -/

/-- The payload `01 02 .. 18` of vector V6. -/
def pay24 : List Byte := [1, 2, 3, 4, 5, 6, 7, 8, 9, 10, 11, 12] ++ [13, 14, 15, 16, 17, 18, 19, 20, 21, 22, 23, 24]

/-- The whole packet of vector V6. -/
def pkt24 : List Byte :=
  [0x7E, 0x06, 0x18, 0x00, 0x00, 0x01, 0x02, 0x03, 0x04, 0x05, 0x06, 0x07, 0x08, 0x09, 0x0A] ++
  [0x0B, 0x0C, 0x0D, 0x0E, 0x0F, 0x10, 0x11, 0x12, 0x13, 0x14, 0x15, 0x16, 0x17, 0x18, 0xE7]

/-- A failure of the transport. -/
def e1 : TErr := 1
/-- Another one. -/
def e2 : TErr := 0

/-- (UNOPENED, 0, none), with the transport's answers and samples given. -/
def unopened (answers : List (Option Answer)) : State := { State.reset with tAnswers := answers }

/-- (OPEN, 0, "A") as a first OPEN leaves it, with the transport's answers and samples given. -/
def opened (answers : List (Option Answer)) (samples : List Bool) : State :=
  { State.reset with
    lc := 1, nameValid := true, name := [0x41], opName := [0x41], tAnswers := answers, tIsOpenIn := samples,
    trace := [{ prim := .openPort [0x41] Config.serial, answer := .ok }] }

/-- (CLOSED, 0, "A") as a CLOSE then leaves it. -/
def closed (answers : List (Option Answer)) : State :=
  { opened answers [] with
    lc := 2,
    trace := [{ prim := .openPort [0x41] Config.serial, answer := .ok }, { prim := .close, answer := .ok }] }

/-- (CLOSED, 1, "A") as a DISPOSE then leaves it. -/
def released : State :=
  { closed [] with
    released := true,
    trace := [{ prim := .openPort [0x41] Config.serial, answer := .ok }, { prim := .close, answer := .ok }] ++
      [{ prim := .close, answer := .ok }, { prim := .dispose, answer := .ok }] }

/-- A command of the host with its operand lines. -/
def word (op : BitVec 3) (n : PortName) (len : Len) (pay : List Byte) : HostWord :=
  { op := op, portName := n, len := len, pay := pay }

/-- A primitive with its argument lines. -/
def prim (tcmd : BitVec 3) (n : PortName) (bytes : List Byte) : PrimWord :=
  { tcmd := tcmd, portName := n, serial := serial8N1, bytes := bytes }

/-! ## Ill-formed terms are refused, one for each check -/

theorem test_illFormed_emptyPortName : (Instr.hostOpen []).wfError = some .emptyPortName := by decide
theorem test_illFormed_emptyPrimName : (Instr.tOpen []).wfError = some .emptyPortName := by decide
theorem test_illFormed_portNameTooLong (n : PortName) (h : Config.nameMax < n.length) :
    (Instr.hostOpen n).wfError = some .portNameTooLong := by
  have hn : nameFits n = false := by
    cases hf : nameFits n with
    | false => rfl
    | true => have := ((nameFits_iff n).mp hf).2; omega
  cases n with
  | nil => simp at h
  | cons b n =>
    have : nameShort (b :: n) = false := by simpa [nameFits] using hn
    simp [Instr.wfError, nameError, this]
theorem test_illFormed_payloadMissing : (Instr.hostWrite 24 [1, 2]).wfError = some .payloadMissing := by decide
theorem test_illFormed_payloadLength : (Instr.sendPacket 3 [1, 2]).wfError = some .payloadLength := by decide
theorem test_illFormed_notAFrame : (Instr.tWrite [0x7E, 0x06]).wfError = some .notAPacket := by decide
/-- A frame of `L = 2` is none that WRITE lets through. -/
theorem test_illFormed_shortPacket :
    (Instr.tWrite [0x7E, 0x06, 0x02, 0x00, 0x00, 0xAA, 0x7E, 0xE7]).wfError = some .notAPacket := by decide

/-! ## Decoding: vectors V67 to V72, and words that are refused -/

theorem test_decode_open : decode (.host (word 0b001#3 [0x41] 0 [])) = .ok (.hostOpen [0x41]) := by decide
theorem test_decode_write : decode (.host (word 0b010#3 [] 0x0003 [1, 2, 3])) = .ok (.hostWrite 3 [1, 2, 3]) := by decide
theorem test_decode_close : decode (.host (word 0b011#3 [] 0 [])) = .ok .hostClose := by decide
theorem test_decode_name : decode (.host (word 0b100#3 [] 0 [])) = .ok .hostName := by decide
theorem test_decode_dispose : decode (.host (word 0b101#3 [] 0 [])) = .ok .hostDispose := by decide
theorem test_decode_reserved0 : decode (.host (word 0b000#3 [] 0 [])) = .ok .reserved0 := by decide
theorem test_decode_reserved6 : decode (.host (word 0b110#3 [] 0 [])) = .ok .reserved6 := by decide
theorem test_decode_reserved7 : decode (.host (word 0b111#3 [] 0 [])) = .ok .reserved7 := by decide
/-- Vector V3. -/
theorem test_decode_sendPacket :
    decode (.wire [0x7E, 0x06, 0x03, 0x00, 0x00, 0x10, 0x20, 0x30, 0xE7]) = .ok (.sendPacket 3 [0x10, 0x20, 0x30]) := by
  decide
theorem test_decode_tOpen : decode (.prim (prim 0b001#3 [0x41] [])) = .ok (.tOpen [0x41]) := by decide
theorem test_decode_tWrite : decode (.prim (prim 0b010#3 [] pkt24)) = .ok (.tWrite pkt24) := by decide
theorem test_decode_tClose : decode (.prim (prim 0b011#3 [] [])) = .ok .tClose := by decide
theorem test_decode_tDispose : decode (.prim (prim 0b100#3 [] [])) = .ok .tDispose := by decide

theorem test_refuse_shortHeader : decode (.wire [0x7E, 0x06, 0x00, 0x00]) = .error .shortHeader := by decide
theorem test_refuse_badStart : decode (.wire [0x7F, 0x06, 0x00, 0x00, 0x00, 0xE7]) = .error .badStart := by decide
theorem test_refuse_badCommand : decode (.wire [0x7E, 0x05, 0x00, 0x00, 0x00, 0xE7]) = .error .badCommand := by decide
theorem test_refuse_badSubCommand : decode (.wire [0x7E, 0x06, 0x00, 0x00, 0x01, 0xE7]) = .error .badSubCommand := by
  decide
/-- The length field counts the payload only: a frame whose field counts one byte more is refused. -/
theorem test_refuse_badLength : decode (.wire [0x7E, 0x06, 0x02, 0x00, 0x00, 0xAA, 0xE7]) = .error .badLength := by
  decide
theorem test_refuse_badEnd : decode (.wire [0x7E, 0x06, 0x01, 0x00, 0x00, 0xAA, 0xE6]) = .error .badEnd := by decide
theorem test_refuse_neverIssued : decode (.prim (prim 0b101#3 [] [])) = .error .neverIssuedPrimitive := by decide
theorem test_refuse_badSerial :
    decode (.prim { prim 1 [0x41] [] with serial := { serial8N1 with baud := 9600 } }) = .error .badSerial := by decide
theorem test_refuse_badPacketSize :
    decode (.prim (prim 2 [] [0x7E, 0x06, 0x00, 0x00, 0x00, 0xE7])) = .error .badPacketSize := by decide

/-! ## The opcode table's words -/

theorem test_table_codes :
    (List.range 8).map (decodeTableWord 8) =
      [some .reserved0, some (.hostOpen [0]), some (.hostWrite 0 []), some .hostClose] ++
      [some .hostName, some .hostDispose, some .reserved6, some .reserved7] := by decide
theorem test_table_packet : decodeTableWord 40 0x7E06000000 = some (.sendPacket 0 []) := by decide
/-- A table word presented to the reset machine is the next instruction it runs. -/
theorem test_table_fetch :
    step (State.reset.withFetchWord 8 4) = .next { State.reset with reply := some (.okName none) } := rfl

/-! ## The packet -/

/-- The source's examples E1 and E2. -/
theorem test_lengthField :
    (encodeFrame 300 []).take 4 = [0x7E, 0x06, 44, 1] ∧ (encodeFrame 200 []).take 4 = [0x7E, 0x06, 200, 0] := by decide
/-- Rule R87: the trace of the emitter for `AA 7E`, and the packet. -/
theorem test_sendPacket_R87 :
    ∃ t, exec (.sendPacket 2 [0xAA, 0x7E]) State.reset = .next t ∧ t.ph = .idle ∧ t.idx = 1 ∧ t.wp = 8 ∧
      packetBytes t = some [0x7E, 0x06, 0x02, 0x00, 0x00, 0xAA, 0x7E, 0xE7] := ⟨_, rfl, by decide⟩
/-- Vector V21: S_PAYLOAD is never entered. -/
theorem test_sendPacket_empty :
    ∃ t, exec (.sendPacket 0 []) State.reset = .next t ∧
      packetBytes t = some [0x7E, 0x06, 0x00, 0x00, 0x00, 0xE7] := ⟨_, rfl, by decide⟩

/-! ## One step of each instruction -/

/-- Vectors V39 and V41. -/
theorem test_open :
    (∃ t, exec (.hostOpen [0x41]) (unopened [some .ok]) = .next t ∧ t.lc = 1 ∧ t.nameValid = true ∧ t.name = [0x41] ∧
      t.reply = some .ok ∧ t.trace = [{ prim := .openPort [0x41] serial8N1, answer := .ok }]) ∧
    ∃ t, exec (.hostOpen [0x42]) (opened [] []) = .next t ∧ t.lc = 1 ∧ t.name = [0x41] ∧
      t.reply = some (.error .alreadyOpen) ∧ t.trace = (opened [] []).trace := ⟨⟨_, rfl, by decide⟩, _, rfl, by decide⟩
/-- Vectors V42, V43 and V44: OPEN after CLOSE, for both values of REOPEN_AFTER_CLOSE. -/
theorem test_reopen :
    (∃ t, openWith false (latchName [0x42] (closed [])) = .next t ∧ t.lc = 2 ∧ t.name = [0x41] ∧
      t.reply = some (.error .alreadyOpen) ∧ t.trace = (closed []).trace) ∧
    (∃ t, openWith true (latchName [0x42] (closed [some .ok])) = .next t ∧ t.lc = 1 ∧ t.name = [0x42] ∧
      t.reply = some .ok) ∧
    ∃ t, openWith true (latchName [0x42] (closed [some (.fail e1)])) = .next t ∧ t.lc = 2 ∧ t.name = [0x41] ∧
      t.reply = some (.error (.transport e1)) :=
  ⟨⟨_, rfl, by decide⟩, ⟨_, rfl, by decide⟩, _, rfl, rfl, rfl, rfl⟩
/-- Vectors V6 and V25. -/
theorem test_write :
    ∃ t, exec (.hostWrite 24 pay24) (opened [some .ok] [true]) = .next t ∧ t.reply = some .ok ∧
      t.trace = (opened [] []).trace ++ [{ prim := .write pkt24, answer := .ok }] :=
  ⟨_, execHostWrite_sends (l := .opened) (by decide) rfl rfl rfl (by decide) rfl, rfl, by decide⟩
/-- Vectors V26, V27, V28, V29, V34 and V37. -/
theorem test_write_rejected :
    exec (.hostWrite 10 []) (unopened []) =
      .next { unopened [] with opLen := 10, reply := some (.error .payloadSize) } ∧
    exec (.hostWrite 24 pay24) { unopened [] with tIsOpenIn := [false] } =
      .next { unopened [] with opLen := 24, reply := some (.error .notOpen) } ∧
    exec (.hostWrite 23 []) (opened [] [true]) =
      .next { opened [] [true] with opLen := 23, reply := some (.error .payloadSize) } ∧
    exec (.hostWrite 513 []) (opened [] [true]) =
      .next { opened [] [true] with opLen := 513, reply := some (.error .payloadSize) } ∧
    exec (.hostWrite 24 pay24) (opened [] [false]) =
      .next { opened [] [] with opLen := 24, reply := some (.error .notOpen) } ∧
    exec (.hostWrite 24 pay24) { closed [] with tIsOpenIn := [true] } =
      .next { closed [] with opLen := 24, reply := some (.error .notOpen) } :=
  ⟨rfl, rfl, rfl, rfl, rfl, rfl⟩
/-- Vectors V48 and V49: a failed T_CLOSE still closes; a framer never opened stays UNOPENED. -/
theorem test_close :
    (∃ t, exec .hostClose (opened [some (.fail e1)] []) = .next t ∧ t.lc = 2 ∧
      t.reply = some (.error (.transport e1)) ∧ t.trace.length = 2) ∧
    ∃ t, exec .hostClose (unopened [some .ok]) = .next t ∧ t.lc = 0 ∧ t.reply = some .ok ∧
      t.trace = [{ prim := .close, answer := .ok }] := ⟨⟨_, rfl, rfl, rfl, rfl⟩, _, rfl, by decide⟩
/-- Vector V51. -/
theorem test_close_released : exec .hostClose released = .next { released with reply := some .ok } := rfl
/-- Vectors V52 and V55. -/
theorem test_name :
    exec .hostName (unopened []) = .next { unopened [] with reply := some (.okName none) } ∧
    exec .hostName released = .next { released with reply := some (.okName (some [0x41])) } := ⟨rfl, rfl⟩
/-- Vector V63: both primitives are issued, and T_CLOSE's failure is the one reported. -/
theorem test_dispose :
    ∃ t, exec .hostDispose (opened [some (.fail e1), some (.fail e2)] []) = .next t ∧ t.lc = 2 ∧ t.released = true ∧
      t.name = [0x41] ∧ t.reply = some (.error (.transport e1)) ∧
      t.trace.map Exchange.prim = [.openPort [0x41] serial8N1, .close, .dispose] := ⟨_, rfl, rfl, rfl, rfl, rfl, rfl⟩
/-- Vectors V58 and V60. -/
theorem test_dispose_again :
    exec .hostDispose released = .next { released with reply := some .ok } ∧
    ∃ t, exec .hostDispose (unopened [some .ok, some .ok]) = .next t ∧ t.lc = 2 ∧ t.nameValid = false ∧
      t.reply = some .ok := ⟨rfl, _, rfl, by decide⟩
/-- Vector V64. -/
theorem test_reserved0 :
    exec .reserved0 (opened [] []) = .next { opened [] [] with reply := some (.error .illegalOp) } := rfl
/-- Vector V65. -/
theorem test_reserved6 :
    exec .reserved6 (unopened []) = .next { unopened [] with reply := some (.error .illegalOp) } := rfl
/-- Vector V66. -/
theorem test_reserved7 : exec .reserved7 released = .next { released with reply := some (.error .illegalOp) } := rfl
/-- Rule R131. -/
theorem test_tOpen :
    exec (.tOpen [0x41]) (unopened [some .ok]) = .next
      { unopened [] with trace := [{ prim := .openPort [0x41] serial8N1, answer := .ok }] } := rfl
/-- Rule R132. -/
theorem test_tWrite :
    exec (.tWrite pkt24) (unopened [some .ok]) = .next
      { unopened [] with trace := [{ prim := .write pkt24, answer := .ok }] } := rfl
/-- Rule R133. -/
theorem test_tClose :
    exec .tClose (unopened [some .ok]) = .next { unopened [] with trace := [{ prim := .close, answer := .ok }] } := rfl
/-- Rule R134. -/
theorem test_tDispose :
    exec .tDispose (unopened [some .ok]) = .next
      { unopened [] with trace := [{ prim := .dispose, answer := .ok }] } := rfl

/-- Rule R181 and TC1 of R137: a reset with the port left open issues nothing, and the port is still open until the next
T_CLOSE, which a CLOSE then issues. -/
theorem test_reset_keeps_line :
    ∃ t u, step { opened [some .ok] [] with pending := [.reset, .command (word 3 [] 0 [])] } = .next t ∧ t.lc = 0 ∧
      t.trace = [] ∧ lineOpen t = true ∧ step t = .next u ∧ u.lc = 0 ∧ lineOpen u = false :=
  ⟨_, _, rfl, rfl, rfl, rfl, rfl, rfl, rfl⟩

/-! ## Witnesses: the hypotheses of each statement are met -/

/-- The invariant holds of a framer that a run has opened: a state other than reset. -/
theorem opened_inv (answers : List (Option Answer)) (samples : List Bool) : FramerInv (opened answers samples) where
  lcLegal := rfl
  releasedClosed := by simp [opened, State.reset]
  openNamed := fun _ => rfl
  unopenedUnnamed := by simp [opened, Lifecycle.code]
  closedNamed := fun _ _ => rfl
  nameRange := fun _ => rfl
  emitterIdle := rfl
  payWf := List.Pairwise.nil
  pktWf := List.Pairwise.nil
  primsWf := by simp [opened, Prim.wf, nameFits, nameShort]
  disposedOnce := rfl
  openLine := fun _ => rfl
  closedLine := by simp [opened, Lifecycle.code]

/-- The invariant holds of a released framer. -/
theorem released_inv (pending : List Request) : FramerInv { released with pending := pending } where
  lcLegal := rfl
  releasedClosed := fun _ => rfl
  openNamed := fun _ => rfl
  unopenedUnnamed := by simp [released, closed, Lifecycle.code]
  closedNamed := fun _ _ => rfl
  nameRange := fun _ => rfl
  emitterIdle := rfl
  payWf := List.Pairwise.nil
  pktWf := List.Pairwise.nil
  primsWf := by simp [released, Prim.wf, nameFits, nameShort]
  disposedOnce := rfl
  openLine := by simp [released, closed, Lifecycle.code]
  closedLine := fun _ => rfl

theorem witness_DecodeOfEncodeIsIdentity :
    (Instr.hostOpen [0x41]).wf = true ∧ (Instr.hostWrite 24 pay24).wf = true ∧ (Instr.hostWrite 0 []).wf = true ∧
    Instr.hostName.wf = true ∧ (Instr.sendPacket 0 []).wf = true ∧ (Instr.sendPacket 2 [0xAA, 0x7E]).wf = true ∧
    (Instr.tWrite pkt24).wf = true ∧ Instr.tDispose.wf = true := by decide
theorem witness_EveryCommandCodeDecodes :
    (primPlain 0).tcmd = 0 ∧ (primPlain 5).tcmd = 5 ∧ (primPlain 6).tcmd = 6 ∧ (primPlain 7).tcmd = 7 := by decide

/-- Payloads of `L` bytes, at both ends of ENCODE's domain. -/
theorem witness_payloadLengths :
    ([] : List Byte).length = (0 : Len).toNat ∧ pay24.length = (24 : Len).toNat ∧
    (List.replicate 65535 (0xAB : Byte)).length = (65535 : Len).toNat := by
  refine ⟨rfl, rfl, ?_⟩
  rw [List.length_replicate]
  rfl
theorem witness_EncodeBuildsTheFrame : State.reset.ph = .idle ∧ pay24.length = (24 : Len).toNat := by decide
theorem witness_EncodeIsPure :
    State.reset.ph = .idle ∧ (opened [] []).ph = .idle ∧ pay24.length = (24 : Len).toNat := by decide
theorem witness_OnlyTheLengthIsAssembled : pay24.length = (24 : Len).toNat ∧ 0 < (24 : Len).toNat := by decide
theorem witness_FrameContainsItsPayload :
    pay24.length = (24 : Len).toNat ∧ encodeFrame 24 pay24 = encodeFrame 24 pay24 := ⟨rfl, rfl⟩
/-- Every length that puts a marker into a control position, and both ends. -/
theorem witness_MarkersInControlPositions :
    ∀ n ∈ [24, 126, 231, 382, 487, 512],
      24 ≤ (BitVec.ofNat 16 n).toNat ∧ (BitVec.ofNat 16 n).toNat ≤ 512 ∧
        (List.replicate n (0x7E : Byte)).length = (BitVec.ofNat 16 n).toNat := by
  simp only [List.length_replicate]
  decide
theorem witness_EmitterComputesEncode :
    (latchPayload 2 [0xAA, 0x7E] State.reset).pay.readRange 0 2 = some [0xAA, 0x7E] ∧
    (latchPayload 0 [] State.reset).pay.readRange 0 0 = some [] ∧ 7 < (2 : Len).toNat + 6 := by decide
theorem witness_BusyEmitterStops :
    ({ opened [] [true] with ph := .fin } : State).ph ≠ .idle ∧ 24 ≤ (24 : Len).toNat ∧ (512 : Len).toNat ≤ 512 ∧
    (opened [] [true]).lc = 1 ∧ sampleIsOpen (opened [] [true]) = true := by decide
theorem witness_WriteOfBadSizeIsRejectedFirst : (23 : Len).toNat < 24 ∧ 512 < (513 : Len).toNat := by decide
theorem witness_WriteWhenNotOpenIsRejected :
    24 ≤ (24 : Len).toNat ∧ (512 : Len).toNat ≤ 512 ∧ (closed []).lc ≠ 3 ∧ (closed []).lc ≠ 1 ∧
    (opened [] [false]).lc ≠ 3 ∧ sampleIsOpen (opened [] [false]) = false := by decide
theorem witness_WriteSendsTheFrame :
    24 ≤ (24 : Len).toNat ∧ (24 : Len).toNat ≤ 512 ∧ (opened [some .ok] [true]).lc = 1 ∧
    sampleIsOpen (opened [some .ok] [true]) = true ∧ (opened [some .ok] [true]).ph = .idle ∧
    pay24.length = (24 : Len).toNat ∧ nextAnswer (afterSample (opened [some .ok] [true])) = some .ok := by decide
/-- The same at the greatest length. -/
theorem witness_WriteSendsTheFrame_max :
    24 ≤ (512 : Len).toNat ∧ (512 : Len).toNat ≤ 512 ∧ (List.replicate 512 (0 : Byte)).length = (512 : Len).toNat := by
  rw [List.length_replicate]
  decide

/-- A WRITE that sends, and one that does not. -/
theorem witness_write_next :
    (∃ t, exec (.hostWrite 24 pay24) (opened [some .ok] [true]) = .next t ∧ t.trace ≠ (opened [some .ok] [true]).trace) ∧
    ∃ t, exec (.hostWrite 23 []) (opened [] [true]) = .next t ∧ t.trace = (opened [] [true]).trace :=
  ⟨⟨_, execHostWrite_sends (l := .opened) (by decide) rfl rfl rfl (by decide) rfl, by decide⟩, _, rfl, rfl⟩
theorem witness_WriteIsAtomicAtTheTransport :
    ∃ t, exec (.hostWrite 24 pay24) (opened [some (.fail e1)] [true]) = .next t ∧
      t.reply = some (.error (.transport e1)) :=
  ⟨_, execHostWrite_sends (l := .opened) (by decide) rfl rfl rfl (by decide) rfl, rfl⟩
theorem witness_PayloadBeyondLengthIsNeverRead :
    (∃ t, exec (.hostWrite 24 pay24) (opened [some .ok] [true]) = .next t ∧
      t.trace ≠ (opened [some .ok] [true]).trace) ∧ pay24.length = (24 : Len).toNat := ⟨witness_write_next.1, rfl⟩
theorem witness_UnwrittenPayloadByteFaults :
    (opened [] [true]).ph = .idle ∧ ([1, 2] : List Byte).length < (24 : Len).toNat ∧ 24 ≤ (24 : Len).toNat ∧
    (24 : Len).toNat ≤ 512 ∧ (opened [] [true]).lc = 1 ∧ sampleIsOpen (opened [] [true]) = true ∧
    (pay24.take 23).length < (24 : Len).toNat := by decide
theorem witness_WriteUsesNothingLeftOver :
    ∃ t, exec (.hostWrite 24 pay24) (opened [some .ok] [true]) = .next t :=
  ⟨_, execHostWrite_sends (l := .opened) (by decide) rfl rfl rfl (by decide) rfl⟩

/-- Both answers a T_OPEN can have. -/
theorem witness_OpenFromUnopened :
    nameFits [0x41] = true ∧ (unopened [some .ok]).lc = 0 ∧ nextAnswer (unopened [some .ok]) = some .ok ∧
    nextAnswer (unopened [some (.fail e1)]) = some (.fail e1) := ⟨rfl, rfl, rfl, rfl⟩
theorem witness_OpenOnAlreadyOpen : nameFits [0x42] = true ∧ (opened [] []).lc = 1 := by decide
theorem witness_OpenAfterDispose : nameFits [0x42] = true ∧ released.lc = 2 ∧ released.released = true := by decide
theorem witness_OpenAfterClose :
    nameFits [0x42] = true ∧ (closed [some .ok]).lc = 2 ∧ (closed [some .ok]).released = false ∧
    nextAnswer (closed [some .ok]) = some .ok := by decide
theorem witness_PortNameOutsideContract :
    Config.nameMax < (List.replicate (Config.nameMax + 1) (0x41 : Byte)).length := by simp
theorem witness_CloseWhileHandleHeld :
    (opened [some .ok] []).released = false ∧ (opened [some .ok] []).lc ≠ 3 ∧
    nextAnswer (opened [some .ok] []) = some .ok ∧ (unopened [some .ok]).released = false ∧
    (unopened [some .ok]).lc ≠ 3 := by decide
theorem witness_CloseAfterDispose : released.released = true := rfl
theorem witness_NameReturnsTheBoundName : released.nameValid = true ∧ (unopened []).nameValid = false := by decide
theorem witness_DisposeReleasesTheHandle :
    (opened [some (.fail e1), some .ok] []).released = false ∧
    nextAnswer (opened [some (.fail e1), some .ok] []) = some (.fail e1) ∧
    nextAnswer (afterAnswer (opened [some (.fail e1), some .ok] [])) = some .ok := ⟨rfl, rfl, rfl⟩
theorem witness_DisposeAgainDoesNothing : released.released = true := rfl
theorem witness_PrimitivesOnTheirOwn : nextAnswer (unopened [some .ok]) = some .ok ∧ nameFits [0x41] = true := by decide

/-- A T_OPEN answered `ok`, and one that fails. -/
theorem witness_TOpenIsIssuedByOpenOnly :
    (∃ t, exec (.hostOpen [0x41]) (unopened [some .ok]) = .next t ∧
      t.trace = [{ prim := .openPort [0x41] serial8N1, answer := .ok }]) ∧
    ∃ t, exec (.hostOpen [0x41]) (unopened [some (.fail e1)]) = .next t ∧
      t.trace = [{ prim := .openPort [0x41] serial8N1, answer := .fail e1 }] := ⟨⟨_, rfl, rfl⟩, _, rfl, rfl⟩
theorem witness_TWriteIsIssuedByWriteOnly :
    ∃ t, exec (.hostWrite 24 pay24) (opened [some .ok] [true]) = .next t ∧
      t.trace = (opened [] []).trace ++ [{ prim := .write pkt24, answer := .ok }] :=
  ⟨_, execHostWrite_sends (l := .opened) (by decide) rfl rfl rfl (by decide) rfl, by decide⟩
/-- CLOSE and DISPOSE under two answers of the transport. -/
theorem witness_TCloseIsIssuedByCloseAndDispose :
    (∃ t t', exec .hostClose (opened [some .ok] []) = .next t ∧
      exec .hostClose { opened [some .ok] [] with tAnswers := [some (.fail e1)] } = .next t') ∧
    ∃ t t', exec .hostDispose (opened [some .ok, some .ok] []) = .next t ∧
      exec .hostDispose { opened [some .ok, some .ok] [] with tAnswers := [some (.fail e1), some .ok] } = .next t' :=
  ⟨⟨_, _, rfl, rfl⟩, _, _, rfl, rfl⟩
/-- A first DISPOSE; and a command presented to a released framer. -/
theorem witness_TDisposeIsIssuedOnce :
    (∃ t, exec .hostDispose (opened [some .ok, some .ok] []) = .next t) ∧
    ∃ s t : State, FramerInv s ∧ s.released = true ∧ noReset s ∧ step s = .next t :=
  ⟨⟨_, rfl⟩, { released with pending := [.command (word 3 [] 0 [])] }, _, released_inv _, rfl, by simp [noReset], rfl⟩
/-- Every operation answers a next state somewhere. -/
theorem witness_OperationsIssueOnlyTheirOwnPrimitives :
    (∃ t, exec (.hostOpen [0x41]) (unopened [some .ok]) = .next t) ∧
    (∃ t, exec (.hostWrite 24 pay24) (opened [some .ok] [true]) = .next t) ∧
    (∃ t, exec .hostClose (opened [some .ok] []) = .next t) ∧
    (∃ t, exec .hostDispose (opened [some .ok, some .ok] []) = .next t) ∧
    (∃ t, exec (.sendPacket 0 []) State.reset = .next t) ∧
    (∃ t, exec (.tOpen [0x41]) (unopened [some .ok]) = .next t) ∧
    ∃ t, exec (.tWrite pkt24) (unopened [some .ok]) = .next t :=
  ⟨⟨_, rfl⟩, witness_WriteUsesNothingLeftOver, ⟨_, rfl⟩, ⟨_, rfl⟩, ⟨_, rfl⟩, ⟨_, rfl⟩, _, rfl⟩
/-- A TransportError, returned for a failure of the operation's own primitive. -/
theorem witness_TransportFailuresAreReportedVerbatim :
    isHostOp .hostDispose = true ∧ ∃ t, exec .hostDispose (opened [some .ok, some (.fail e2)] []) = .next t ∧
      t.reply = some (.error (.transport e2)) ∧ ({ prim := .dispose, answer := .fail e2 } : Exchange) ∈ t.trace :=
  ⟨rfl, _, rfl, rfl, .tail _ (.tail _ (.head _))⟩
theorem witness_TransportInputsAreReadByWriteOnly : isWrite .hostClose = false ∧ isWrite (.tWrite []) = false := by decide
theorem witness_InputsAreReadInOrder :
    (opened [none] [true]).tAnswers = none :: [] ∧ (opened [] [true]).tIsOpenIn = true :: [] ∧
    State.reset.tAnswers = [] ∧ State.reset.tIsOpenIn = [] := by decide
/-- A transport that never answers, met by each operation. -/
theorem witness_UnansweredPrimitiveIsStuck :
    nextAnswer (unopened [none]) = none ∧ (unopened [none]).lc = 0 ∧ nameFits [0x41] = true ∧
    nextAnswer (opened [none] [true]) = none ∧ (opened [none] [true]).lc = 1 ∧ (opened [none] [true]).lc ≠ 3 ∧
    (opened [none] [true]).released = false ∧ sampleIsOpen (opened [none] [true]) = true ∧
    (opened [none] [true]).ph = .idle ∧ pay24.length = (24 : Len).toNat := by decide
/-- The same, met by an OPEN after CLOSE (for a machine that reopens), and by the second primitive of a DISPOSE. -/
theorem witness_UnansweredPrimitiveIsStuck_later :
    nextAnswer (closed [none]) = none ∧ (closed [none]).lc = 2 ∧ (closed [none]).released = false ∧
    (∃ e, openWith true (latchName [0x42] (closed [none])) = .fault e) ∧
    (opened [some .ok, none] []).released = false ∧ nextAnswer (opened [some .ok, none] []) = some .ok ∧
    nextAnswer (afterAnswer (opened [some .ok, none] [])) = none := ⟨rfl, rfl, rfl, ⟨_, rfl⟩, rfl, rfl, rfl⟩

/-- Each operation of R153, reaching its errors. -/
theorem witness_FirstErrorIsTheOneReported :
    (∃ t, exec (.hostWrite 10 []) (unopened []) = .next t ∧ t.reply = some (.error .payloadSize)) ∧
    (∃ t, exec (.hostWrite 24 pay24) (opened [] [false]) = .next t ∧ t.reply = some (.error .notOpen)) ∧
    (∃ t, exec (.hostOpen [0x42]) (opened [] []) = .next t ∧ t.reply = some (.error .alreadyOpen)) ∧
    (∃ t, exec .hostClose (opened [some (.fail e1)] []) = .next t ∧ t.reply = some (.error (.transport e1))) ∧
    (∃ t, exec .hostDispose (opened [some (.fail e1), some (.fail e2)] []) = .next t ∧
      t.reply = some (.error (.transport e1))) ∧
    ∃ t, exec .reserved0 (opened [] []) = .next t ∧ t.reply = some (.error .illegalOp) :=
  ⟨⟨_, rfl, rfl⟩, ⟨_, rfl, rfl⟩, ⟨_, rfl, rfl⟩, ⟨_, rfl, rfl⟩, ⟨_, rfl, rfl⟩, _, rfl, rfl⟩
/-- A validation failure, and a transport failure of each operation that has one. -/
theorem witness_FailuresArePrecise :
    (∃ t, exec .reserved7 (opened [] []) = .next t ∧ t.reply = some (.error .illegalOp)) ∧
    (∃ t, exec (.hostOpen [0x41]) (unopened [some (.fail e1)]) = .next t ∧ t.reply = some (.error (.transport e1))) ∧
    (∃ t, exec (.hostWrite 24 pay24) (opened [some (.fail e1)] [true]) = .next t ∧
      t.reply = some (.error (.transport e1))) ∧
    (∃ t, exec .hostClose (opened [some (.fail e1)] []) = .next t ∧ t.reply = some (.error (.transport e1))) ∧
    ∃ t, exec .hostDispose (opened [some .ok, some (.fail e2)] []) = .next t ∧
      t.reply = some (.error (.transport e2)) :=
  ⟨⟨_, rfl, rfl⟩, ⟨_, rfl, rfl⟩, witness_WriteIsAtomicAtTheTransport, ⟨_, rfl, rfl⟩, _, rfl, rfl⟩
theorem witness_StatusIsAnOutputOnly :
    isHostOp .hostName = true ∧ ∃ t, exec .hostName (opened [] []) = .next t := ⟨rfl, _, rfl⟩
theorem witness_IllegalLifecycleFaults :
    ({ State.reset with lc := 3 } : State).lc = 3 ∧ ({ State.reset with lc := 3 } : State).released = false ∧
    nameFits [0x41] = true ∧ 24 ≤ (24 : Len).toNat ∧ (512 : Len).toNat ≤ 512 := by decide
/-- A change of each kind. -/
theorem witness_OnlyTheseOperationsChangeThat :
    (∃ t, exec (.hostOpen [0x41]) (unopened [some .ok]) = .next t ∧ t.lc ≠ (unopened [some .ok]).lc ∧
      t.nameValid ≠ (unopened [some .ok]).nameValid ∧ t.opName ≠ (unopened [some .ok]).opName ∧
      t.reply ≠ (unopened [some .ok]).reply) ∧
    (∃ t, exec .hostDispose (opened [some .ok, some .ok] []) = .next t ∧
      t.released ≠ (opened [some .ok, some .ok] []).released) ∧
    ∃ t, exec (.sendPacket 2 [0xAA, 0x7E]) State.reset = .next t ∧ ¬ SameBytes State.reset t ∧
      t.opLen ≠ State.reset.opLen ∧ t.wp ≠ State.reset.wp :=
  ⟨⟨_, rfl, by decide⟩, ⟨_, rfl, by decide⟩, _, rfl, fun h => absurd (h 0).2 (by decide), by decide⟩
theorem witness_ResetRequestRestarts :
    ({ released with pending := [.reset, .command (word 4 [] 0 [])] } : State).pending =
      .reset :: [.command (word 4 [] 0 [])] := rfl
theorem witness_StepRunsTheDecodedInstruction :
    ({ released with pending := [.command (word 4 [] 0 [])] } : State).pending = .command (word 4 [] 0 []) :: [] ∧
    (Request.command (word 4 [] 0 [])).encoded = some (.host (word 4 [] 0 [])) ∧
    decode (.host (word 4 [] 0 [])) = .ok .hostName := by decide
/-- A framer that waits, one with a command, one with bytes that are no frame. -/
theorem witness_StepWaitsOrRunsTheCommand :
    State.reset.pending = [] ∧
    ({ State.reset with pending := [.command (word 4 [] 0 [])] } : State).pending = .command (word 4 [] 0 []) :: [] ∧
    ({ State.reset with pending := [.packet [0x7E]] } : State).pending = .packet [0x7E] :: [] ∧
    decode (.wire [0x7E]) = .error .shortHeader := by decide
/-- A step of a framer that meets the invariant, and whose command changes the lifecycle. -/
theorem witness_StepKeepsInv :
    ∃ s t : State, FramerInv s ∧ noReset s ∧ step s = .next t ∧ s.nameValid = true ∧ s.lc = 1 ∧ t.lc = 2 :=
  ⟨{ opened [some .ok] [] with pending := [.command (word 3 [] 0 [])] }, _,
    { opened_inv [some .ok] [] with }, by simp [noReset], rfl, rfl, rfl, rfl⟩
theorem witness_LifecycleMovesForward :
    (∃ s t : State, FramerInv s ∧ noReset s ∧ step s = .next t ∧ s.nameValid = true ∧ s.lc = 1 ∧ t.lc = 2) ∧
    ∃ s t : State, FramerInv s ∧ noReset s ∧ step s = .next t ∧ s.released = true :=
  ⟨witness_StepKeepsInv, { released with pending := [.command (word 3 [] 0 [])] }, _, released_inv _, by simp [noReset], rfl, rfl⟩
/-- A framer whose transport answers, and a WRITE of the least length. -/
theorem witness_UnderTC5EveryOperationReturns :
    FramerInv (opened [some .ok] [true]) ∧ TC5 (opened [some .ok] [true]) ∧ isHostOp (.hostWrite 24 pay24) = true ∧
    (Instr.hostWrite 24 pay24).wf = true :=
  ⟨opened_inv _ _, fun h => absurd h (by decide), rfl, by decide⟩
/-- Under TC1 an open framer's next sample is 1. -/
theorem witness_UnderTC1WriteTestsLifecycle :
    FramerInv (opened [some .ok] [true]) ∧ TC1 (opened [some .ok] [true]) ∧ 24 ≤ (24 : Len).toNat ∧
    (24 : Len).toNat ≤ 512 ∧ ∃ t, exec (.hostWrite 24 pay24) (opened [some .ok] [true]) = .next t :=
  ⟨opened_inv _ _, rfl, by decide, by decide, witness_WriteUsesNothingLeftOver⟩

end Sys2Proof.Tests
end

/-! ## What a step does with the request it takes (R6, R48) -/

namespace Sys2Proof.Claims

open Sys2Proof.Machine

/-- A step's equation for a request that presents an encoding with a meaning: the request leaves the queue, and the
instruction runs on what is left. -/
theorem step_of_decode_ok {s : State} {r : Request} {rest : List Request} {e : Encoded} {i : Instr}
    (hpending : s.pending = r :: rest) (hencoded : r.encoded = some e) (hdecode : decode e = .ok i) :
    step s = exec i { s with pending := rest } := by
  simp only [step, hpending, hencoded, hdecode]

/-- Settles O49: `step`'s equation for a request that decodes. -/
theorem stepRunsTheDecodedInstruction : Obligations.StepRunsTheDecodedInstruction :=
  fun _ _ _ _ _ hpending hencoded hdecode => step_of_decode_ok hpending hencoded hdecode

end Sys2Proof.Claims

/-! ## Every way an instruction completes, said once -/

namespace Sys2Proof.Machine

/-- `Completes i s t`: one constructor for each way instruction `i` goes from `s` to a next state `t`. -/
inductive Completes : Instr → State → State → Prop where
  /-- OPEN turned away by the lifecycle tests (R101). -/
  | openTurnedAway {s : State} {n : PortName} {l : Lifecycle} (hname : nameFits n = true)
      (hlc : lifecycle? s.lc = some l) (hmay : mayOpen Config.reopenAfterClose s.released l = false) :
      Completes (.hostOpen n) s (endWith (.error .alreadyOpen) (latchName n s))
  /-- OPEN whose T_OPEN is answered (R101). -/
  | openAnswered {s : State} {n : PortName} {l : Lifecycle} {a : Answer} (hname : nameFits n = true)
      (hlc : lifecycle? s.lc = some l) (hmay : mayOpen Config.reopenAfterClose s.released l = true)
      (hans : nextAnswer s = some a) :
      Completes (.hostOpen n) s (finishOpen a (answered (.openPort n Config.serial) a (latchName n s)))
  /-- WRITE of a length that is not accepted (R102 step 1). -/
  | writeBadSize {s : State} {len : Len} {pay : List Byte} (hsize : sizeOk len = false) :
      Completes (.hostWrite len pay) s (endWith (.error .payloadSize) (dropPayload (latchPayload len pay s)))
  /-- WRITE on a framer or a transport that is not open (R102 step 2). -/
  | writeNotOpen {s : State} {len : Len} {pay : List Byte} {l : Lifecycle} (hsize : sizeOk len = true)
      (hlc : lifecycle? s.lc = some l) (hmay : mayWrite (sampleIsOpen s) l = false) :
      Completes (.hostWrite len pay) s (endWith (.error .notOpen) (dropPayload (writing len pay s)))
  /-- WRITE whose T_WRITE is answered (R102 steps 3 and 4). -/
  | writeAnswered {s : State} {len : Len} {pay : List Byte} {l : Lifecycle} {a : Answer} (hsize : sizeOk len = true)
      (hlc : lifecycle? s.lc = some l) (hmay : mayWrite (sampleIsOpen s) l = true) (hidle : s.ph = .idle)
      (hpay : len.toNat ≤ pay.length) (hans : nextAnswer (writing len pay s) = some a) :
      Completes (.hostWrite len pay) s (written len pay a s)
  /-- CLOSE of a released framer (R103). -/
  | closeReleased {s : State} (hrel : s.released = true) : Completes .hostClose s (endWith .ok s)
  /-- CLOSE whose T_CLOSE is answered (R103). -/
  | closeAnswered {s : State} {l : Lifecycle} {a : Answer} (hrel : s.released = false)
      (hlc : lifecycle? s.lc = some l) (hans : nextAnswer s = some a) :
      Completes .hostClose s (report a { answered .close a s with lc := (closedFrom l).code })
  /-- NAME (R104). -/
  | name {s : State} : Completes .hostName s (endWith (.okName (if s.nameValid then some s.name else none)) s)
  /-- A later DISPOSE (R105). -/
  | disposeReleased {s : State} (hrel : s.released = true) : Completes .hostDispose s (endWith .ok s)
  /-- The first DISPOSE, both its primitives answered (R105). -/
  | disposeAnswered {s : State} {r1 r2 : Answer} (hrel : s.released = false) (hclose : nextAnswer s = some r1)
      (hdispose : nextAnswer (answered .close r1 s) = some r2) :
      Completes .hostDispose s (disposed r1 r2 s)
  /-- The reserved command codes (R107). -/
  | reserved0 {s : State} : Completes .reserved0 s (endWith (.error .illegalOp) s)
  | reserved6 {s : State} : Completes .reserved6 s (endWith (.error .illegalOp) s)
  | reserved7 {s : State} : Completes .reserved7 s (endWith (.error .illegalOp) s)
  /-- ENCODE on its own (R80). -/
  | sendPacket {s : State} {len : Len} {pay : List Byte} (hidle : s.ph = .idle) (hpay : len.toNat ≤ pay.length) :
      Completes (.sendPacket len pay) s (dropPayload (built (latchPayload len pay s) (pay.take len.toNat)))
  /-- The four primitives on their own, answered (R131 to R134). -/
  | tOpen {s : State} {n : PortName} {a : Answer} (hname : nameFits n = true) (hans : nextAnswer s = some a) :
      Completes (.tOpen n) s (answered (.openPort n Config.serial) a s)
  | tWrite {s : State} {bytes : List Byte} {a : Answer} (hans : nextAnswer s = some a) :
      Completes (.tWrite bytes) s (answered (.write bytes) a s)
  | tClose {s : State} {a : Answer} (hans : nextAnswer s = some a) : Completes .tClose s (answered .close a s)
  | tDispose {s : State} {a : Answer} (hans : nextAnswer s = some a) : Completes .tDispose s (answered .dispose a s)

/-- Whatever answers a next state does so in one of these ways. -/
theorem completes_of_exec {i : Instr} {s t : State} (h : exec i s = .next t) : Completes i s t := by
  cases i with
  | hostOpen n =>
    obtain ⟨hname, l, hlc, ⟨hmay, rfl⟩ | ⟨hmay, a, hans, rfl⟩⟩ := execHostOpen_eq_next h
    · exact .openTurnedAway hname hlc hmay
    · exact .openAnswered hname hlc hmay hans
  | hostWrite len pay =>
    obtain ⟨hsize, rfl⟩ | ⟨hsize, l, hlc, ⟨hmay, rfl⟩ | ⟨hmay, hidle, hpay, a, hans, rfl⟩⟩ := execHostWrite_eq_next h
    · exact .writeBadSize hsize
    · exact .writeNotOpen hsize hlc hmay
    · exact .writeAnswered hsize hlc hmay hidle hpay hans
  | hostClose =>
    obtain ⟨hrel, rfl⟩ | ⟨hrel, l, a, hlc, hans, rfl⟩ := execHostClose_eq_next h
    · exact .closeReleased hrel
    · exact .closeAnswered hrel hlc hans
  | hostDispose =>
    obtain ⟨hrel, rfl⟩ | ⟨hrel, r1, r2, hclose, hdispose, rfl⟩ := execHostDispose_eq_next h
    · exact .disposeReleased hrel
    · exact .disposeAnswered hrel hclose hdispose
  | hostName => cases h; exact .name
  | reserved0 => cases h; exact .reserved0
  | reserved6 => cases h; exact .reserved6
  | reserved7 => cases h; exact .reserved7
  | sendPacket len pay =>
    obtain ⟨hidle, hpay, rfl⟩ := execSendPacket_eq_next h
    exact .sendPacket hidle hpay
  | tOpen n =>
    obtain ⟨hname, a, hans, rfl⟩ := execTOpen_eq_next h
    exact .tOpen hname hans
  | tWrite bytes =>
    obtain ⟨a, hans, rfl⟩ := primitive_eq_next h
    exact .tWrite hans
  | tClose =>
    obtain ⟨a, hans, rfl⟩ := primitive_eq_next h
    exact .tClose hans
  | tDispose =>
    obtain ⟨a, hans, rfl⟩ := primitive_eq_next h
    exact .tDispose hans

/-! ## The invariant, operation by operation -/

theorem inv_takeRequest {s : State} (rest : List Request) (h : FramerInv s) :
    FramerInv { s with pending := rest } := { h with }

theorem inv_latchName {s : State} (n : PortName) (h : FramerInv s) : FramerInv (latchName n s) := { h with }

theorem inv_latchPayload {s : State} (len : Len) (pay : List Byte) (h : FramerInv s) :
    FramerInv (latchPayload len pay s) := { h with payWf := Memory.wf_ofBytes pay 0 }

theorem inv_dropPayload {s : State} (h : FramerInv s) : FramerInv (dropPayload s) :=
  { h with payWf := Memory.wf_nil }

theorem inv_dropPacket {s : State} (h : FramerInv s) : FramerInv (dropPacket s) :=
  { h with pktWf := Memory.wf_nil }

theorem inv_endWith {s : State} (r : Reply) (h : FramerInv s) : FramerInv (endWith r s) := { h with }

theorem inv_report {s : State} (a : Answer) (h : FramerInv s) : FramerInv (report a s) := by
  cases a with
  | ok => exact inv_endWith _ h
  | fail e => exact inv_endWith _ h

theorem inv_afterSample {s : State} (h : FramerInv s) : FramerInv (afterSample s) := by
  unfold afterSample
  split
  · exact { h with }
  · exact { h with }

theorem inv_afterAnswer {s : State} (h : FramerInv s) : FramerInv (afterAnswer s) := by
  unfold afterAnswer
  split
  · exact { h with }
  · exact { h with }

theorem inv_writing {s : State} (len : Len) (pay : List Byte) (h : FramerInv s) : FramerInv (writing len pay s) :=
  inv_afterSample (inv_latchPayload len pay h)

theorem inv_built {s : State} (bs : List Byte) (h : FramerInv s) : FramerInv (built s bs) :=
  { h with emitterIdle := rfl, pktWf := Memory.wf_ofBytes _ 0 }

/-! ### What an exchange adds to the trace -/

theorem disposals_append (trace : List Exchange) (x : Exchange) :
    disposals (trace ++ [x]) = disposals trace + if x.prim = .dispose then 1 else 0 := by
  simp [disposals, List.countP_append, List.countP_singleton]

theorem wf_openPort {n : PortName} (h : nameFits n = true) : (Prim.openPort n Config.serial).wf = true := by
  simp [Prim.wf, h]

/-- What WRITE transmits is one whole frame of an accepted length (R132). -/
theorem wf_write_encodeFrame {len : Len} {pay : List Byte} (hsize : sizeOk len = true)
    (hpay : len.toNat ≤ pay.length) : (Prim.write (encodeFrame len pay)).wf = true := by
  have hparse : parseFrame (encodeFrame len pay) = .ok (len, pay.take len.toNat) := by
    rw [← encodeFrame_take]
    exact parseFrame_encodeFrame (by simpa using hpay)
  simp only [Prim.wf, Instr.wf, Instr.wfError, hparse, hsize, if_true, Option.isNone_none]

/-- An exchange that is no T_DISPOSE and leaves the line as it was. -/
theorem inv_answered {s : State} {p : Prim} {a : Answer} (h : FramerInv s) (hwf : p.wf = true) (hp : p ≠ .dispose)
    (hline : lineAfter (lineOpen s) { prim := p, answer := a } = lineOpen s) : FramerInv (answered p a s) :=
  { inv_afterAnswer h with
    primsWf := List.forall_mem_append.2 ⟨h.primsWf, by simpa using hwf⟩
    disposedOnce := by simpa [disposals_append, hp] using h.disposedOnce
    openLine := by simpa [hline] using h.openLine
    closedLine := by simpa [hline] using h.closedLine }

/-! ### The operations that write `lc` -/

/-- OPEN is let through only while the handle is held. -/
theorem released_of_mayOpen {s : State} {l : Lifecycle} (h : FramerInv s) (hlc : lifecycle? s.lc = some l)
    (hmay : mayOpen Config.reopenAfterClose s.released l = true) : s.released = false := by
  rcases (mayOpen_iff _ _ hlc).1 hmay with h0 | ⟨-, hrel, -⟩
  · by_contra hrel
    have := h.releasedClosed (by simpa using hrel)
    rw [h0] at this
    exact absurd this (by decide)
  · exact hrel

theorem inv_finishOpen {s : State} {n : PortName} (a : Answer) (h : FramerInv s) (hname : nameFits n = true)
    (hrel : s.released = false) :
    FramerInv (finishOpen a (answered (.openPort n Config.serial) a (latchName n s))) := by
  have hs := inv_latchName n h
  cases a with
  | fail e => exact inv_endWith _ (inv_answered hs (wf_openPort hname) (by simp) (by simp [lineAfter]))
  | ok =>
    exact
      { inv_afterAnswer hs with
        lcLegal := rfl
        releasedClosed := by simp [hrel]
        openNamed := fun _ => rfl
        unopenedUnnamed := by simp [code_inj]
        closedNamed := by simp [code_inj]
        nameRange := by simpa using hname
        primsWf := List.forall_mem_append.2 ⟨h.primsWf, by simp [wf_openPort hname]⟩
        disposedOnce := by simpa [disposals_append] using h.disposedOnce
        openLine := fun _ => by simp [lineOpen, lineAfter]
        closedLine := by simp [code_inj] }

theorem inv_closed {s : State} {l : Lifecycle} (a : Answer) (h : FramerInv s) (hrel : s.released = false)
    (hlc : lifecycle? s.lc = some l) :
    FramerInv { answered .close a s with lc := (closedFrom l).code } :=
  { inv_afterAnswer h with
    lcLegal := by simp
    releasedClosed := by simp [hrel]
    openNamed := fun h1 => by cases l <;> simp [closedFrom, code_inj] at h1
    unopenedUnnamed := fun h0 => by
      cases l with
      | unopened => simpa using h.unopenedUnnamed (lifecycle?_eq_some hlc)
      | opened => simp [closedFrom, code_inj] at h0
      | closed => simp [closedFrom, code_inj] at h0
    closedNamed := fun h2 _ => by
      cases l with
      | unopened => simp [closedFrom, code_inj] at h2
      | opened => simpa using h.openNamed (lifecycle?_eq_some hlc)
      | closed => simpa using h.closedNamed (lifecycle?_eq_some hlc) hrel
    primsWf := List.forall_mem_append.2 ⟨h.primsWf, by simp [Prim.wf]⟩
    disposedOnce := by simpa [disposals_append] using h.disposedOnce
    openLine := fun h1 => by cases l <;> simp [closedFrom, code_inj] at h1
    closedLine := fun _ => by simp [lineOpen, lineAfter] }

theorem inv_disposed {s : State} (r1 r2 : Answer) (h : FramerInv s) (hrel : s.released = false) :
    FramerInv (disposed r1 r2 s) :=
  inv_report _
    { lcLegal := rfl
      releasedClosed := fun _ => rfl
      openNamed := by simp [code_inj]
      unopenedUnnamed := by simp [code_inj]
      closedNamed := by simp
      nameRange := by simpa using h.nameRange
      emitterIdle := by simpa using h.emitterIdle
      payWf := by simpa using h.payWf
      pktWf := by simpa using h.pktWf
      primsWf := List.forall_mem_append.2 ⟨List.forall_mem_append.2 ⟨h.primsWf, by simp [Prim.wf]⟩, by simp [Prim.wf]⟩
      disposedOnce := by
        have h0 : disposals s.trace = 0 := by simpa [hrel] using h.disposedOnce
        simp only [answered_trace, disposals_append, h0]
        rfl
      openLine := by simp [code_inj]
      closedLine := fun _ => by simp [lineOpen, lineAfter] }

/-! ### Instructions, resets, steps -/

/-- Every instruction that a step can run keeps the invariant. -/
theorem inv_exec {i : Instr} {s t : State} (hi : Reached i) (h : FramerInv s) (hx : exec i s = .next t) :
    FramerInv t := by
  cases completes_of_exec hx with
  | openTurnedAway => exact inv_endWith _ (inv_latchName _ h)
  | openAnswered hname hlc hmay => exact inv_finishOpen _ h hname (released_of_mayOpen h hlc hmay)
  | writeBadSize => exact inv_endWith _ (inv_dropPayload (inv_latchPayload _ _ h))
  | writeNotOpen => exact inv_endWith _ (inv_dropPayload (inv_writing _ _ h))
  | writeAnswered hsize _ _ _ hpay =>
    exact inv_report _ (inv_dropPacket (inv_dropPayload (inv_answered (inv_built _ (inv_writing _ _ h))
      (wf_write_encodeFrame hsize hpay) (by simp) rfl)))
  | closeReleased | name | disposeReleased | reserved0 | reserved6 | reserved7 => exact inv_endWith _ h
  | closeAnswered hrel hlc => exact inv_report _ (inv_closed _ h hrel hlc)
  | disposeAnswered hrel => exact inv_disposed _ _ h hrel
  | sendPacket => exact inv_dropPayload (inv_built _ (inv_latchPayload _ _ h))
  | tOpen | tWrite | tClose | tDispose => cases hi

@[simp] theorem resetFramer_lc (s : State) : (resetFramer s).lc = Lifecycle.unopened.code := rfl

/-- A reset meets the invariant from any state: an unopened framer may find its line at either level (R181). -/
theorem inv_resetFramer (s : State) : FramerInv (resetFramer s) where
  lcLegal := rfl
  releasedClosed hrel := by cases hrel
  openNamed := by simp [code_inj]
  unopenedUnnamed _ := rfl
  closedNamed := by simp [code_inj]
  nameRange hname := by cases hname
  emitterIdle := rfl
  payWf := Memory.wf_nil
  pktWf := Memory.wf_nil
  primsWf _ hx := by cases hx
  disposedOnce := rfl
  openLine := by simp [code_inj]
  closedLine := by simp [code_inj]

theorem inv_step {s t : State} (h : FramerInv s) (hstep : step s = .next t) : FramerInv t := by
  obtain ⟨-, rfl⟩ | ⟨rest, -, rfl⟩ | ⟨r, rest, i, -, -, hi, hx⟩ := step_eq_next hstep
  · exact h
  · exact inv_resetFramer _
  · exact inv_exec hi (inv_takeRequest rest h) hx

end Sys2Proof.Machine

/-! ## The invariant at reset and across a step (R31, R32) -/

namespace Sys2Proof.Claims

open Sys2Proof.Machine

/-- Settles O52: the step waits, resets, or runs an instruction, and each keeps the invariant. -/
theorem stepKeepsInv : Obligations.StepKeepsInv := fun _ _ h hstep => inv_step h hstep

/-- Settles O51: the reset state is what a reset makes of itself. -/
theorem resetMeetsInv : Obligations.ResetMeetsInv := inv_resetFramer State.reset

/-- Settles O47, by the values of the reset state. -/
theorem resetIsAFreshInstance : Obligations.ResetIsAFreshInstance :=
  ⟨rfl, rfl, rfl, rfl, rfl, Memory.read_nil, Memory.read_nil⟩

end Sys2Proof.Claims

/-! ## Which part of the state an instruction may change (R11, R21 to R29) -/

namespace Sys2Proof.Claims

open Sys2Proof.Machine

theorem lc_written_by {i : Instr} {s t : State} (h : Completes i s t) (hne : t.lc ≠ s.lc) :
    (∃ n, i = .hostOpen n) ∨ i = .hostClose ∨ i = .hostDispose := by
  cases h with
  | openTurnedAway | openAnswered => exact .inl ⟨_, rfl⟩
  | closeReleased | closeAnswered => exact .inr (.inl rfl)
  | disposeReleased | disposeAnswered => exact .inr (.inr rfl)
  | _ => simp [writing, written] at hne

theorem released_written_by {i : Instr} {s t : State} (h : Completes i s t) (hne : t.released ≠ s.released) :
    i = .hostDispose := by
  cases h with
  | disposeReleased | disposeAnswered => rfl
  | _ => simp [writing, written] at hne

theorem name_written_by {i : Instr} {s t : State} (h : Completes i s t)
    (hne : t.nameValid ≠ s.nameValid ∨ t.name ≠ s.name) : ∃ n, i = .hostOpen n := by
  cases h with
  | openTurnedAway | openAnswered => exact ⟨_, rfl⟩
  | _ => simp [writing, written, disposed] at hne

theorem emitter_written_by {i : Instr} {s t : State} (h : Completes i s t)
    (hne : ¬ SameEmitter s t ∨ ¬ SameBytes s t ∨ t.opLen ≠ s.opLen) :
    (∃ len pay, i = .hostWrite len pay) ∨ ∃ len pay, i = .sendPacket len pay := by
  cases h with
  | writeBadSize | writeNotOpen | writeAnswered => exact .inl ⟨_, _, rfl⟩
  | sendPacket => exact .inr ⟨_, _, rfl⟩
  | _ => simp [SameEmitter, SameBytes, disposed] at hne

theorem opName_written_by {i : Instr} {s t : State} (h : Completes i s t) (hne : t.opName ≠ s.opName) :
    ∃ n, i = .hostOpen n := by
  cases h with
  | openTurnedAway | openAnswered => exact ⟨_, rfl⟩
  | _ => simp [writing, written, disposed] at hne

theorem reply_written_by {i : Instr} {s t : State} (h : Completes i s t) (hne : t.reply ≠ s.reply) :
    isHostOp i = true := by
  cases h with
  | sendPacket | tOpen | tWrite | tClose | tDispose => simp at hne
  | _ => rfl

theorem inputs_written_by_none {i : Instr} {s t : State} (h : Completes i s t) :
    t.pending = s.pending ∧ t.tPortName = s.tPortName ∧ t.tLineBefore = s.tLineBefore := by
  cases h <;> simp [writing, written, disposed]

/-- Settles O46: part by part, over the ways an instruction completes. -/
theorem onlyTheseOperationsChangeThat : Obligations.OnlyTheseOperationsChangeThat := by
  intro i s t hx
  have h := completes_of_exec hx
  exact ⟨lc_written_by h, released_written_by h, name_written_by h, emitter_written_by h, opName_written_by h,
    reply_written_by h, inputs_written_by_none h⟩

/-! ## The lifecycle moves forward (R31 I-e, I-f) -/

/-- A name or a release is never undone, and `lc` goes from `s` to `t` as R106 draws it. -/
def MovesForward (s t : State) : Prop :=
  (s.nameValid = true → t.nameValid = true) ∧ (s.released = true → t.released = true) ∧
  (t.lc = s.lc ∨ (s.lc = 0 ∧ (t.lc = 1 ∨ t.lc = 2)) ∨ (s.lc = 1 ∧ t.lc = 2) ∨
    (s.lc = 2 ∧ t.lc = 1 ∧ s.released = false ∧ Config.reopenAfterClose = true))

/-- What leaves the four registers alone moves nothing. -/
theorem movesForward_of_sameRegisters {s t : State} (h : SameRegisters s t) : MovesForward s t := by
  obtain ⟨hlc, hreleased, hvalid, -⟩ := h
  exact ⟨by simp [hvalid], by simp [hreleased], .inl hlc⟩

theorem movesForward_open {s t : State} {l : Lifecycle} (hlc : lifecycle? s.lc = some l)
    (hmay : mayOpen Config.reopenAfterClose s.released l = true) (hopen : t.lc = Lifecycle.opened.code)
    (hvalid : t.nameValid = true) (hrel : t.released = s.released) : MovesForward s t := by
  refine ⟨fun _ => hvalid, by simp [hrel], ?_⟩
  rcases (mayOpen_iff _ _ hlc).1 hmay with h0 | ⟨h2, hheld, hreopen⟩
  · exact .inr (.inl ⟨h0, .inl hopen⟩)
  · exact .inr (.inr (.inr ⟨h2, hopen, hheld, hreopen⟩))

/-- CLOSE and DISPOSE: `lc` stays or becomes CLOSED. -/
theorem movesForward_close {s t : State} (hlegal : (lifecycle? s.lc).isSome = true)
    (hlc : t.lc = s.lc ∨ t.lc = Lifecycle.closed.code) (hvalid : t.nameValid = s.nameValid)
    (hrel : s.released = true → t.released = true) : MovesForward s t := by
  refine ⟨by simp [hvalid], hrel, ?_⟩
  rcases hlc with hsame | hclosed
  · exact .inl hsame
  · obtain ⟨l, hl⟩ := Option.isSome_iff_exists.1 hlegal
    have hs := lifecycle?_eq_some hl
    cases l with
    | unopened => exact .inr (.inl ⟨hs, .inr hclosed⟩)
    | opened => exact .inr (.inr (.inl ⟨hs, hclosed⟩))
    | closed => exact .inl (hclosed.trans hs.symm)

theorem closedFrom_code {lc : BitVec 2} {l : Lifecycle} (hlc : lifecycle? lc = some l) :
    (closedFrom l).code = lc ∨ (closedFrom l).code = Lifecycle.closed.code := by
  rw [lifecycle?_eq_some hlc]
  cases l with
  | unopened => exact .inl rfl
  | opened | closed => exact .inr rfl

theorem movesForward_exec {i : Instr} {s t : State} (hlegal : (lifecycle? s.lc).isSome = true)
    (hx : exec i s = .next t) : MovesForward s t := by
  cases completes_of_exec hx with
  | @openAnswered _ n l a _ hlc hmay _ =>
    cases a with
    | ok => exact movesForward_open hlc hmay rfl rfl (by simp)
    | fail e => exact movesForward_of_sameRegisters (by simp [SameRegisters])
  | closeAnswered _ hlc => exact movesForward_close hlegal (by simpa using closedFrom_code hlc) (by simp) (by simp)
  | disposeAnswered =>
    exact movesForward_close hlegal (.inr (by simp [disposed])) (by simp [disposed]) (by simp [disposed])
  | _ => exact movesForward_of_sameRegisters (by simp [SameRegisters, writing, written])

/-- Settles O53: a step that is no reset waits or runs one instruction, from a legal lifecycle. -/
theorem lifecycleMovesForward : Obligations.LifecycleMovesForward := by
  intro s t h hreset hstep
  obtain ⟨-, rfl⟩ | ⟨rest, hp, -⟩ | ⟨r, rest, i, -, -, -, hx⟩ := step_eq_next hstep
  · exact movesForward_of_sameRegisters ⟨rfl, rfl, rfl, rfl⟩
  · exact absurd (by simp [hp]) hreset
  · exact movesForward_exec (s := { s with pending := rest }) h.lcLegal hx

/-! ## Stops (R33, U11, U12) -/

/-- Settles O19: building the packet stops at the byte just after those in place. -/
theorem unwrittenPayloadByteFaults : Obligations.UnwrittenPayloadByteFaults := by
  intro s len pay hidle hshort
  constructor
  · have hbuild : buildPacket (latchPayload len pay s) = .fault .unspecifiedRead :=
      buildPacket_missing (j := pay.length) hidle hshort (by simp)
    simp only [exec, execSendPacket, hbuild, andThen_fault]
  · intro hmin hmax hlc hopen
    have hl : lifecycle? s.lc = some .opened := by rw [hlc]; rfl
    simp only [exec]
    rw [execHostWrite_passed ((sizeOk_iff len).2 ⟨hmin, hmax⟩) hl ((mayWrite_iff _ hl).2 ⟨hlc, hopen⟩),
      if_pos hidle, if_neg (Nat.not_le.2 hshort)]

/-- Settles O45: each operation's first read of `lc` finds no lifecycle state. -/
theorem illegalLifecycleFaults : Obligations.IllegalLifecycleFaults := by
  intro s h3
  have hnone : lifecycle? s.lc = none := lifecycle?_eq_none.2 h3
  refine ⟨fun n hname => ?_, fun len pay hmin hmax => ?_, fun hheld => ?_⟩
  · simp [exec, execHostOpen, openWith, withName_of_fits _ hname, hnone]
  · simp [exec, execHostWrite, writeLatched, writeSized, hmin, hmax, hnone]
  · simp [exec, execHostClose, hheld, hnone]

end Sys2Proof.Claims

/-! ## The status is an output (R27) -/

namespace Sys2Proof.Machine

open Sys2Proof.Claims

/-- The state with another status on the port. -/
def withReply (r : Option Reply) (s : State) : State := { s with reply := r }

/-! ### What ends an operation writes over the status -/

@[simp] theorem report_withReply (a : Answer) (r : Option Reply) (s : State) :
    report a (withReply r s) = report a s := by cases a <;> rfl

@[simp] theorem finishOpen_withReply (a : Answer) (r : Option Reply) (s : State) :
    finishOpen a (withReply r s) = finishOpen a s := by cases a <;> rfl

/-! ### The other operations carry it along -/

@[simp] theorem latchName_withReply (n : PortName) (r : Option Reply) (s : State) :
    latchName n (withReply r s) = withReply r (latchName n s) := rfl

@[simp] theorem latchPayload_withReply (len : Len) (pay : List Byte) (r : Option Reply) (s : State) :
    latchPayload len pay (withReply r s) = withReply r (latchPayload len pay s) := rfl

@[simp] theorem dropPayload_withReply (r : Option Reply) (s : State) :
    dropPayload (withReply r s) = withReply r (dropPayload s) := rfl

@[simp] theorem dropPacket_withReply (r : Option Reply) (s : State) :
    dropPacket (withReply r s) = withReply r (dropPacket s) := rfl

@[simp] theorem afterSample_withReply (r : Option Reply) (s : State) :
    afterSample (withReply r s) = withReply r (afterSample s) := by
  simp only [afterSample, withReply]
  split <;> rfl

theorem answered_withReply (p : Prim) (a : Answer) (r : Option Reply) (s : State) :
    answered p a (withReply r s) = withReply r (answered p a s) := by
  simp only [answered, afterAnswer, withReply]
  split <;> rfl

/-- A primitive whose continuation does not depend on the status. -/
theorem ask_withReply (p : Prim) (r : Option Reply) (s : State) {go : Answer → State → Out}
    (hgo : ∀ a t, go a (withReply r t) = go a t) : ask p (withReply r s) go = ask p s go := by
  simp only [ask, answered_withReply, hgo]
  rfl

theorem primitive_withReply (p : Prim) (r : Option Reply) (s : State) :
    primitive p (withReply r s) = mapNext (withReply r) (primitive p s) := by
  have hans : nextAnswer (withReply r s) = nextAnswer s := rfl
  cases ha : nextAnswer s with
  | none => simp only [primitive, ask, hans, ha, mapNext]
  | some a => simp only [primitive, ask, hans, ha, mapNext, answered_withReply]

@[simp] theorem buildPacket_withReply (r : Option Reply) (s : State) :
    buildPacket (withReply r s) = mapNext (withReply r) (buildPacket s) := by
  simp only [buildPacket_eq, withReply]
  split
  · split <;> rfl
  · rfl

theorem andThen_mapNext (f : State → State) (o : Out) (go : State → Out) :
    andThen (mapNext f o) go = andThen o fun s => go (f s) := by cases o <;> rfl

theorem mapNext_andThen (f : State → State) (o : Out) (go : State → Out) :
    mapNext f (andThen o go) = andThen o fun s => mapNext f (go s) := by cases o <;> rfl

theorem mapNext_mapNext (f g : State → State) (o : Out) : mapNext f (mapNext g o) = mapNext (f ∘ g) o := by
  cases o <;> rfl

theorem mapNext_withName (f : State → State) (n : PortName) (go : Out) :
    mapNext f (withName n go) = withName n (mapNext f go) := by
  unfold withName
  split
  · rfl
  · split <;> rfl

@[simp] theorem transmit_withReply (r : Option Reply) (s : State) : transmit (withReply r s) = transmit s := by
  have hbytes : packetBytes (withReply r s) = packetBytes s := rfl
  have hask (bytes : List Byte) := ask_withReply (.write bytes) r s
    (go := fun a t => .next (report a (dropPacket (dropPayload t)))) (by simp)
  simp only [transmit, hbytes, hask]

/-! ### The instructions -/

/-- A host operation does the same whatever status the port shows. -/
theorem exec_withReply_of_host {i : Instr} (hi : isHostOp i = true) (r : Option Reply) (s : State) :
    exec i (withReply r s) = exec i s := by
  cases i with
  | hostOpen n =>
    have hask (p : Prim) := ask_withReply p r (latchName n s) (go := fun a t => .next (finishOpen a t)) (by simp)
    simp only [exec, execHostOpen, openWith, latchName_withReply, hask]
    rfl
  | hostWrite len pay =>
    simp only [exec, execHostWrite, writeLatched, writeSized, latchPayload_withReply, afterSample_withReply,
      buildPacket_withReply, andThen_mapNext, transmit_withReply]
    rfl
  | hostClose =>
    have hask (l : Lifecycle) := ask_withReply .close r s
      (go := fun a t => .next (report a { t with lc := (closedFrom l).code }))
      fun a t => congrArg _ (report_withReply a r { t with lc := (closedFrom l).code })
    simp only [exec, execHostClose, hask]
    rfl
  | hostDispose =>
    simp only [exec, execHostDispose]
    exact ite_congr rfl (fun _ => rfl) fun _ => ask_withReply .close r s fun r1 t =>
      ask_withReply .dispose r t fun r2 u => congrArg _
        (report_withReply (firstFailure r1 r2) r { u with lc := Lifecycle.closed.code, released := true })
  | hostName | reserved0 | reserved6 | reserved7 => rfl
  | sendPacket | tOpen | tWrite | tClose | tDispose => cases hi

/-- ENCODE and the primitives on their own do the same, and leave the status in place. -/
theorem exec_withReply_of_not_host {i : Instr} (hi : isHostOp i = false) (r : Option Reply) (s : State) :
    exec i (withReply r s) = mapNext (withReply r) (exec i s) := by
  cases i with
  | sendPacket len pay =>
    simp only [exec, execSendPacket, latchPayload_withReply, buildPacket_withReply, andThen_mapNext, mapNext_andThen]
    rfl
  | tOpen n => simp only [exec, execTOpen, primitive_withReply, mapNext_withName]
  | tWrite | tClose | tDispose => exact primitive_withReply _ r s
  | _ => cases hi

/-- A host operation that completes has a status. -/
theorem reply_isSome_of_host {i : Instr} {s t : State} (hi : isHostOp i = true) (h : Completes i s t) :
    t.reply.isSome = true := by
  cases h with
  | sendPacket | tOpen | tWrite | tClose | tDispose => cases hi
  | _ => simp [written, disposed]

end Sys2Proof.Machine

namespace Sys2Proof.Claims

open Sys2Proof.Machine

/-- Settles O44: a host operation writes over the status, every other instruction carries it along. -/
theorem statusIsAnOutputOnly : Obligations.StatusIsAnOutputOnly := by
  refine ⟨fun i s t hi hx => reply_isSome_of_host hi (completes_of_exec hx), fun i s r => ⟨fun hi t hx => ?_, ?_⟩⟩
  · exact (exec_withReply_of_host hi r s).trans hx
  · show mapNext (withReply none) (exec i (withReply r s)) = mapNext (withReply none) (exec i s)
    cases hi : isHostOp i with
    | true => rw [exec_withReply_of_host hi]
    | false =>
      rw [exec_withReply_of_not_host hi, mapNext_mapNext]
      rfl

end Sys2Proof.Claims

/-! ## The length field of the frame (R40) -/

namespace Sys2Proof

@[simp] theorem encodeFrame_getElem?_two (len : Len) (pay : List Byte) :
    (encodeFrame len pay)[2]? = some (lenLo len) := rfl

@[simp] theorem encodeFrame_getElem?_three (len : Len) (pay : List Byte) :
    (encodeFrame len pay)[3]? = some (lenHi len) := rfl

end Sys2Proof

namespace Sys2Proof.Claims

/-- Settles O8: `lenLo` stands at offset 2 and `lenHi` at offset 3; the two examples are their values. -/
theorem lengthFieldIsLittleEndian : Obligations.LengthFieldIsLittleEndian := by
  have h300 : lenLo 300 = 44 ∧ lenHi 300 = 1 := by decide
  have h200 : lenLo 200 = 200 ∧ lenHi 200 = 0 := by decide
  refine ⟨fun len pay => ?_, fun pay => by simpa using h300, fun pay => by simpa using h200⟩
  exact ⟨encodeFrame_getElem?_two len pay, encodeFrame_getElem?_three len pay⟩

end Sys2Proof.Claims

/-! ## WRITE looks at the first `L` payload bytes only (R46) -/

namespace Sys2Proof.Machine

/-! ### A dropped payload leaves no mark -/

theorem dropPayload_latchPayload_congr (len : Len) (pay pay' : List Byte) (s : State) :
    dropPayload (latchPayload len pay s) = dropPayload (latchPayload len pay' s) := rfl

theorem dropPayload_built (s : State) (bs : List Byte) : dropPayload (built s bs) = built (dropPayload s) bs := rfl

theorem dropPayload_afterSample (s : State) : dropPayload (afterSample s) = afterSample (dropPayload s) := by
  simp only [afterSample, dropPayload]
  split <;> rfl

theorem dropPayload_answered (p : Prim) (a : Answer) (s : State) :
    dropPayload (answered p a s) = answered p a (dropPayload s) := by
  simp only [answered, afterAnswer, dropPayload]
  split <;> rfl

theorem dropPayload_writing_congr (len : Len) (pay pay' : List Byte) (s : State) :
    dropPayload (writing len pay s) = dropPayload (writing len pay' s) := by
  rw [writing, writing, dropPayload_afterSample, dropPayload_afterSample, dropPayload_latchPayload_congr]

/-! ### Payloads that agree on their first `L` bytes -/

theorem le_length_congr {len : Len} {pay pay' : List Byte} (h : pay.take len.toNat = pay'.take len.toNat) :
    len.toNat ≤ pay.length ↔ len.toNat ≤ pay'.length := by
  have hl := congrArg List.length h
  simp only [List.length_take] at hl
  omega

theorem encodeFrame_congr {len : Len} {pay pay' : List Byte} (h : pay.take len.toNat = pay'.take len.toNat) :
    encodeFrame len pay = encodeFrame len pay' := by
  rw [← encodeFrame_take len pay, h, encodeFrame_take]

theorem nextAnswer_writing_congr (len : Len) (pay pay' : List Byte) (s : State) :
    nextAnswer (writing len pay s) = nextAnswer (writing len pay' s) :=
  nextAnswer_congr (by simp [writing]) (by simp [writing])

theorem written_congr {len : Len} {pay pay' : List Byte} (a : Answer) (s : State)
    (h : pay.take len.toNat = pay'.take len.toNat) : written len pay a s = written len pay' a s := by
  simp only [written, dropPayload_answered, dropPayload_built, encodeFrame_congr h, h,
    dropPayload_writing_congr len pay pay']

theorem execHostWrite_illegal {len : Len} {pay : List Byte} {s : State} (h : sizeOk len = true)
    (hl : lifecycle? s.lc = none) : execHostWrite len pay s = .fault .illegalLifecycle := by
  simp only [execHostWrite, writeLatched, latchPayload_opLen, h, if_true, writeSized, latchPayload_lc, hl]

/-- WRITE does the same for payloads that agree on their first `L` bytes, along every path. -/
theorem execHostWrite_congr {len : Len} {pay pay' : List Byte} (s : State)
    (h : pay.take len.toNat = pay'.take len.toNat) : execHostWrite len pay s = execHostWrite len pay' s := by
  cases hsize : sizeOk len with
  | false => rw [execHostWrite_badSize hsize, execHostWrite_badSize hsize, dropPayload_latchPayload_congr]
  | true =>
    cases hlc : lifecycle? s.lc with
    | none => rw [execHostWrite_illegal hsize hlc, execHostWrite_illegal hsize hlc]
    | some l =>
      cases hmay : mayWrite (sampleIsOpen s) l with
      | false =>
        rw [execHostWrite_notOpen hsize hlc hmay, execHostWrite_notOpen hsize hlc hmay, dropPayload_writing_congr]
      | true =>
        simp only [execHostWrite_passed hsize hlc hmay, le_length_congr h, nextAnswer_writing_congr len pay pay',
          written_congr _ s h]

/-- ENCODE on its own, in full: what it answers whatever the emitter and the payload are. -/
theorem execSendPacket_eq (len : Len) (pay : List Byte) (s : State) :
    execSendPacket len pay s =
      if s.ph = .idle then
        if len.toNat ≤ pay.length then .next (dropPayload (built (latchPayload len pay s) (pay.take len.toNat)))
        else .fault .unspecifiedRead
      else .fault .emitterBusy := by
  by_cases hidle : s.ph = .idle
  · rw [if_pos hidle]
    by_cases hpay : len.toNat ≤ pay.length
    · rw [if_pos hpay, execSendPacket_builds hidle hpay]
    · rw [if_neg hpay]
      exact (Claims.unwrittenPayloadByteFaults s len pay hidle (Nat.lt_of_not_le hpay)).1
  · rw [if_neg hidle, execSendPacket, buildPacket_busy (by simpa using hidle), andThen_fault]

/-- ENCODE on its own does the same for payloads that agree on their first `L` bytes. -/
theorem execSendPacket_congr {len : Len} {pay pay' : List Byte} (s : State)
    (h : pay.take len.toNat = pay'.take len.toNat) : execSendPacket len pay s = execSendPacket len pay' s := by
  simp only [execSendPacket_eq, le_length_congr h, dropPayload_built, h, dropPayload_latchPayload_congr len pay pay']

end Sys2Proof.Machine

/-! ## What WRITE hands to the transport (R44, R46, R51) -/

namespace Sys2Proof.Claims

open Sys2Proof.Machine

/-- Settles O17: of the three ways a WRITE completes, one issues a primitive, and it has passed both checks. -/
theorem writeIsAtomicAtTheTransport : Obligations.WriteIsAtomicAtTheTransport := by
  intro s t len pay hx
  cases completes_of_exec hx with
  | writeBadSize => exact .inl rfl
  | writeNotOpen => exact .inl (by simp [writing])
  | @writeAnswered _ _ _ l a hsize hlc hmay _ hpay _ =>
    obtain ⟨hmin, hmax⟩ := (sizeOk_iff len).1 hsize
    obtain ⟨hopened, hopen⟩ := (mayWrite_iff _ hlc).1 hmay
    refine .inr ⟨a, by simp [written, writing], encodeFrame_length hpay, hmin, hmax, hopened, hopen, ?_⟩
    rintro e rfl
    simp [written, writing, SameRegisters]

/-- Settles O18: the size is that of O17's T_WRITE, and bytes appended behind `L` leave the first `L` as they were. -/
theorem payloadBeyondLengthIsNeverRead : Obligations.PayloadBeyondLengthIsNeverRead := by
  constructor
  · intro s t len pay hx hne
    obtain ⟨_, -, -, hmin, hmax, -⟩ := (writeIsAtomicAtTheTransport s t len pay hx).resolve_left hne
    exact ⟨hmin, hmax⟩
  · intro s len pay extra hlen
    have h : (pay ++ extra).take len.toNat = pay.take len.toNat := List.take_append_of_le_length hlen.ge
    exact ⟨execHostWrite_congr s h, execSendPacket_congr s h⟩

/-- Settles O20: WRITE completes in the same way from the other state, since none of its tests looks at
what is left over, and it ends in the same trace, status, registers and inputs. -/
theorem writeUsesNothingLeftOver : Obligations.WriteUsesNothingLeftOver := by
  intro s t len pay p q l n x y z hx
  cases completes_of_exec hx with
  | writeBadSize hsize => exact ⟨_, execHostWrite_badSize hsize, rfl, rfl, ⟨rfl, rfl, rfl, rfl⟩, rfl, rfl, rfl⟩
  | writeNotOpen hsize hlc hmay =>
    refine ⟨_, execHostWrite_notOpen hsize hlc hmay, ?_⟩
    simp [writing, SameRegisters]
  | writeAnswered hsize hlc hmay hidle hpay hans =>
    refine ⟨_, execHostWrite_sends hsize hlc hmay hidle hpay ((nextAnswer_congr ?_ ?_).trans hans), ?_⟩
    · simp [writing]
    · simp [writing]
    · simp [written, writing, SameRegisters]

end Sys2Proof.Claims

/-! ## The fields of the frame (R60, R65) -/

namespace Sys2Proof

@[simp] theorem lenLo_toNat (len : Len) : (lenLo len).toNat = len.toNat % 256 := by
  simp [lenLo]

@[simp] theorem lenHi_toNat (len : Len) : (lenHi len).toNat = len.toNat / 256 := by
  have hlen := len.isLt
  simp only [lenHi, BitVec.extractLsb'_toNat, Nat.shiftRight_eq_div_pow]
  omega

theorem lenLo_eq_iff (len : Len) (b : Byte) : lenLo len = b ↔ len.toNat % 256 = b.toNat := by
  rw [← BitVec.toNat_inj, lenLo_toNat]

theorem lenHi_eq_iff (len : Len) (b : Byte) : lenHi len = b ↔ len.toNat / 256 = b.toNat := by
  rw [← BitVec.toNat_inj, lenHi_toNat]

/-- For a payload of `L` bytes the frame is the layout of R60, with nothing cut off. -/
theorem encodeFrame_of_length {len : Len} {pay : List Byte} (h : pay.length = len.toNat) :
    encodeFrame len pay = [0x7E, 0x06, lenLo len, lenHi len, 0x00] ++ pay ++ [0xE7] := by
  rw [encodeFrame, ← h, List.take_length]
  rfl

/-- The model's encoder and the frame written out from the wire format agree. -/
theorem encodeFrame_eq_frame {len : Len} {pay : List Byte} (h : pay.length = len.toNat) :
    encodeFrame len pay = Claims.frame len pay := by
  have hlo : lenLo len = BitVec.ofNat 8 (len.toNat % 256) := by simp [lenLo_eq_iff]
  have hhi : lenHi len = BitVec.ofNat 8 (len.toNat / 256) := by
    rw [← lenHi_toNat, BitVec.ofNat_toNat, BitVec.setWidth_eq]
  rw [encodeFrame_of_length h, hlo, hhi, Claims.frame]

/-- Offsets 5 and above: the payload, then END. -/
theorem encodeFrame_getElem?_five_add {len : Len} {pay : List Byte} (h : pay.length = len.toNat) (i : Nat) :
    (encodeFrame len pay)[5 + i]? = (pay ++ [0xE7])[i]? := by
  rw [encodeFrame_of_length h, List.append_assoc, List.getElem?_append_right (by simp)]
  simp

/-- What a receiver accepts on the wire (R61). -/
theorem decodeWire_eq_ok_iff (bytes : List Byte) (i : Instr) :
    decodeWire bytes = .ok i ↔
      ∃ (len : Len) (pay : List Byte), pay.length = len.toNat ∧ i = .sendPacket len pay ∧
        bytes = encodeFrame len pay := by
  constructor
  · intro h
    cases hp : parseFrame bytes with
    | error e => simp [decodeWire, hp] at h
    | ok lp =>
      obtain ⟨hlen, hbytes⟩ := parseFrame_eq_ok hp
      have hi : i = .sendPacket lp.1 lp.2 := by simpa [decodeWire, hp, eq_comm] using h
      exact ⟨lp.1, lp.2, hlen, hi, hbytes⟩
  · rintro ⟨len, pay, hlen, rfl, rfl⟩
    simp [decodeWire, parseFrame_encodeFrame hlen]

end Sys2Proof

/-! ## Encodings (30_encoding.md) -/

namespace Sys2Proof.Claims

/-- Settles O2: each row of the opcode table by its own round trip. -/
theorem decodeOfEncodeIsIdentity : Obligations.DecodeOfEncodeIsIdentity := by
  intro i
  cases i with
  | hostOpen n => exact Laws.RoundTrip.hostOpen n
  | hostWrite len pay => exact Laws.RoundTrip.hostWrite len pay
  | hostClose => exact Laws.RoundTrip.hostClose
  | hostName => exact Laws.RoundTrip.hostName
  | hostDispose => exact Laws.RoundTrip.hostDispose
  | reserved0 => exact Laws.RoundTrip.reserved0
  | reserved6 => exact Laws.RoundTrip.reserved6
  | reserved7 => exact Laws.RoundTrip.reserved7
  | sendPacket len pay => exact Laws.RoundTrip.sendPacket len pay
  | tOpen n => exact Laws.RoundTrip.tOpen n
  | tWrite bytes => exact Laws.RoundTrip.tWrite bytes
  | tClose => exact Laws.RoundTrip.tClose
  | tDispose => exact Laws.RoundTrip.tDispose

/-- Settles O3: a receiver accepts exactly the encoder's frames, and those are the frames of the wire format. -/
theorem wireDecodesExactlyTheFrames : Obligations.WireDecodesExactlyTheFrames := by
  intro bytes i
  rw [decode, decodeWire_eq_ok_iff]
  refine exists_congr fun len => exists_congr fun pay => and_congr_right fun hlen => ?_
  rw [encodeFrame_eq_frame hlen]

/-- Every command-port code is read as a host operation, and that operation is encoded with the same code (R62). -/
theorem decodeHost_keeps_code (w : HostWord) :
    isHostOp (decodeHost w) = true ∧ ∃ w' : HostWord, encode (decodeHost w) = .host w' ∧ w'.op = w.op := by
  obtain ⟨op, n, len, pay⟩ := w
  have hcodes : op = 0 ∨ op = 1 ∨ op = 2 ∨ op = 3 ∨ op = 4 ∨ op = 5 ∨ op = 6 ∨ op = 7 := by
    revert op
    decide
  rcases hcodes with rfl | rfl | rfl | rfl | rfl | rfl | rfl | rfl <;> exact ⟨rfl, _, rfl, rfl⟩

/-- Settles O4: a command word by `decodeHost_keeps_code`; the four primitive codes fall to the table's last row. -/
theorem everyCommandCodeDecodes : Obligations.EveryCommandCodeDecodes := by
  constructor
  · intro w
    exact ⟨decodeHost w, rfl, decodeHost_keeps_code w⟩
  · rintro ⟨tcmd, n, serial, bytes⟩ (rfl | rfl | rfl | rfl) <;> rfl

/-- Settles O9: the field by `lenLo_toNat` and `lenHi_toNat`, the bytes by their offsets. -/
theorem onlyTheLengthIsAssembled : Obligations.OnlyTheLengthIsAssembled := by
  intro len pay hlen
  have hsum : (lenLo len).toNat + 256 * (lenHi len).toNat = pay.length := by
    rw [lenLo_toNat, lenHi_toNat, hlen, Nat.mod_add_div]
  have hpay : ∀ i, i < len.toNat → (encodeFrame len pay)[5 + i]? = pay[i]? := fun i hi => by
    rw [encodeFrame_getElem?_five_add hlen, List.getElem?_append_left (hlen ▸ hi)]
  have hend : (encodeFrame len pay)[5 + len.toNat]? = some 0xE7 := by
    rw [encodeFrame_getElem?_five_add hlen, ← hlen, List.getElem?_concat_length]
  have hafter : (encodeFrame len pay)[6 + len.toNat]? = none := by
    rw [List.getElem?_eq_none_iff, Machine.encodeFrame_length hlen.ge, Nat.add_comm]
  exact ⟨lenLo_toNat len, lenHi_toNat len, hsum, rfl, rfl, encodeFrame_getElem?_two len pay,
    encodeFrame_getElem?_three len pay, rfl, hpay, hend, hafter⟩

/-- Settles O11: `len_hi` is `L / 256`, at most 2, and `len_lo` is `L % 256`, so each marker is met twice up to 512. -/
theorem markersInControlPositions : Obligations.MarkersInControlPositions := by
  intro len pay hmin hmax hlen
  have hval (k : Len) : len = k ↔ len.toNat = k.toNat := BitVec.toNat_inj.symm
  refine ⟨encodeFrame_of_length hlen, ?_⟩
  simp only [ne_eq, lenHi_eq_iff, lenLo_eq_iff, hval, BitVec.ofNat_eq_ofNat, BitVec.toNat_ofNat]
  omega

/-- Settles O1: the decoder evaluated on the seven words. -/
theorem writtenOutWordsDecode : Obligations.WrittenOutWordsDecode := by
  unfold Obligations.WrittenOutWordsDecode
  decide

end Sys2Proof.Claims

/-! ## Port names outside the contract (R63 a, U4) -/

namespace Sys2Proof.Machine

theorem exec_hostOpen_of_misfit {n : PortName} (s : State) (h : nameFits n = false) :
    exec (.hostOpen n) s = .refused (if n = [] then .emptyPortName else .portNameTooLong) :=
  withName_of_misfit _ h

theorem exec_tOpen_of_misfit {n : PortName} (s : State) (h : nameFits n = false) :
    exec (.tOpen n) s = .refused (if n = [] then .emptyPortName else .portNameTooLong) :=
  withName_of_misfit _ h

theorem nameFits_of_tooLong {n : PortName} (h : Config.nameMax < n.length) : nameFits n = false := by
  rw [Bool.eq_false_iff, ne_eq, nameFits_iff]
  omega

end Sys2Proof.Machine

namespace Sys2Proof.Claims

open Sys2Proof.Machine

/-- Settles O25: both operations look at the name before anything else, and neither kind of name fits. -/
theorem portNameOutsideContract : Obligations.PortNameOutsideContract := by
  constructor
  · intro s
    exact ⟨exec_hostOpen_of_misfit s rfl, exec_tOpen_of_misfit s rfl⟩
  · intro s n hlong
    have hne : n ≠ [] := List.ne_nil_of_length_pos (Nat.zero_lt_of_lt hlong)
    have hmisfit := nameFits_of_tooLong hlong
    rw [exec_hostOpen_of_misfit s hmisfit, exec_tOpen_of_misfit s hmisfit, if_neg hne]
    exact ⟨rfl, rfl⟩

end Sys2Proof.Claims

/-! ## The packet encoder (40_packet_encoder.md) -/

namespace Sys2Proof.Claims

open Sys2Proof.Machine

/-- The written-out frame has six bytes more than its payload (R80). -/
theorem frame_length {len : Len} {pay : List Byte} (h : pay.length = len.toNat) :
    (frame len pay).length = len.toNat + 6 := by
  simp [frame, h]

end Sys2Proof.Claims

namespace Sys2Proof

/-- The payload is what stands behind the five header bytes (R84). -/
theorem take_drop_encodeFrame {len : Len} {pay : List Byte} (h : pay.length = len.toNat) :
    ((encodeFrame len pay).drop 5).take len.toNat = pay := by
  rw [encodeFrame_of_length h, ← h]
  simp

/-- ENCODE is injective, because a receiver reads the length and the payload back (R84). -/
theorem encodeFrame_inj {len len' : Len} {pay pay' : List Byte} (h : pay.length = len.toNat)
    (h' : pay'.length = len'.toNat) (heq : encodeFrame len pay = encodeFrame len' pay') :
    len = len' ∧ pay = pay' := by
  have hparse := parseFrame_encodeFrame h
  rw [heq, parseFrame_encodeFrame h'] at hparse
  cases hparse
  exact ⟨rfl, rfl⟩

end Sys2Proof

namespace Sys2Proof.Machine

/-! ### The emitter's run (R85, R86) -/

/-- Where `L` emit steps and six more lead, whatever the phase before the start was. -/
theorem emitRun_built {s : State} {bs : List Byte} (hr : s.pay.readRange 0 s.opLen.toNat = some bs) :
    emitRun (s.opLen.toNat + 6) (emitStart s) = .next (built s bs) := by
  have hbuild := buildPacket_of_payload (s := { s with ph := .idle }) rfl hr
  rwa [buildPacket, if_pos rfl] at hbuild

theorem built_wp_toNat (s : State) (bs : List Byte) : (built s bs).wp.toNat = s.opLen.toNat + 6 := by
  have hlen := s.opLen.isLt
  simp only [built, BitVec.toNat_ofNat]
  omega

theorem beforeEnd_wp_toNat (s : State) (bs : List Byte) : (beforeEnd s bs).wp.toNat = s.opLen.toNat + 5 := by
  have hlen := s.opLen.isLt
  simp only [beforeEnd, BitVec.toNat_ofNat]
  omega

/-- The payload index ends on the last payload byte, and stays 0 where there is none (R85). -/
theorem built_idx_toNat (s : State) (bs : List Byte) : (built s bs).idx.toNat = s.opLen.toNat - 1 := by
  simp only [built]
  split
  next hzero => simp [hzero]
  next hne =>
    have hpos : 1 ≤ s.opLen := by bv_omega
    exact BitVec.toNat_sub_of_le hpos

/-- No step before the last returns to idle, and each has put one byte out: in the header, in the payload, at END. -/
theorem emitRun_busy {s : State} {bs : List Byte} (hr : s.pay.readRange 0 s.opLen.toNat = some bs) {k : Nat}
    (hk : k < s.opLen.toNat + 6) : ∃ t, emitRun k (emitStart s) = .next t ∧ t.ph ≠ .idle ∧ t.wp.toNat = k := by
  obtain hheader | ⟨i, rfl, hi⟩ | rfl :
      k < 5 ∨ (∃ i, k = 5 + i ∧ i < s.opLen.toNat) ∨ k = s.opLen.toNat + 5 := by
    by_cases hlow : k < 5
    · exact .inl hlow
    · by_cases hlast : k = s.opLen.toNat + 5
      · exact .inr (.inr hlast)
      · exact .inr (.inl ⟨k - 5, by omega, by omega⟩)
  · exact emitRun_header_busy s k hheader
  · have hne : s.opLen ≠ 0 := by
      intro hzero
      simp [hzero] at hi
    have hlen := (Memory.readRange_some hr).1
    obtain ⟨t, hrun, hin, -⟩ := emitRun_payload i (afterHeader_inPayload hr hne) (by omega)
    refine ⟨t, ?_, by simp [hin.ph], by simpa using hin.wp⟩
    rw [emitRun_add, emitRun_header, andThen_next, hrun]
  · exact ⟨beforeEnd s bs, emitRun_beforeEnd hr, by simp [beforeEnd], beforeEnd_wp_toNat s bs⟩

/-! ### SEND_PACKET (R80) -/

/-- ENCODE of a payload of exactly `L` bytes. -/
theorem exec_sendPacket_of_length {len : Len} {pay : List Byte} {s : State} (hidle : s.ph = .idle)
    (hlen : pay.length = len.toNat) :
    exec (.sendPacket len pay) s = .next (dropPayload (built (latchPayload len pay s) pay)) := by
  have hbuilds := execSendPacket_builds hidle hlen.ge
  rwa [← hlen, List.take_length] at hbuilds

theorem execSendPacket_busy (len : Len) (pay : List Byte) {s : State} (hbusy : s.ph ≠ .idle) :
    execSendPacket len pay s = .fault .emitterBusy := by
  rw [execSendPacket_eq, if_neg hbusy]

/-- WRITE past its checks starts the emitter, which must be idle (R88 a). -/
theorem execHostWrite_busy {len : Len} {pay : List Byte} {s : State} {l : Lifecycle} (hsize : sizeOk len = true)
    (hlc : lifecycle? s.lc = some l) (hmay : mayWrite (sampleIsOpen s) l = true) (hbusy : s.ph ≠ .idle) :
    execHostWrite len pay s = .fault .emitterBusy := by
  rw [execHostWrite_passed hsize hlc hmay, if_neg hbusy]

end Sys2Proof.Machine

namespace Sys2Proof.Claims

open Sys2Proof.Machine

/-- Settles O6: PKT holds the run of bytes `encodeFrame`, the written-out frame; the rest are `built`'s fields. -/
theorem encodeBuildsTheFrame : Obligations.EncodeBuildsTheFrame := by
  intro s len pay hidle hlen
  refine ⟨_, exec_sendPacket_of_length hidle hlen, fun a => ?_, frame_length hlen, ?_⟩
  · rw [← encodeFrame_eq_frame hlen]
    simp
  · simp [SameRegisters]

/-- Settles O7: from either state the packet is the same run of bytes, `encodeFrame` of the operands. -/
theorem encodeIsPure : Obligations.EncodeIsPure := by
  intro s s' len pay hidle hidle' hlen
  refine ⟨_, _, exec_sendPacket_of_length hidle hlen, exec_sendPacket_of_length hidle' hlen, rfl, rfl, rfl, ?_, rfl,
    fun a => rfl⟩
  simp [SameRegisters]

/-- Settles O10: the length is read off the two length bytes, and injectivity is the receiver's round trip. -/
theorem frameContainsItsPayload : Obligations.FrameContainsItsPayload := by
  constructor
  · intro len pay hlen
    have hfield : len.toNat = 256 * (lenHi len).toNat + (lenLo len).toNat := by
      rw [lenHi_toNat, lenLo_toNat, Nat.div_add_mod]
    have hpay := take_drop_encodeFrame hlen
    refine ⟨encodeFrame_length hlen.ge, encodeFrame_eq_frame hlen, hpay, lenLo len, lenHi len,
      encodeFrame_getElem?_two len pay, encodeFrame_getElem?_three len pay, hfield, ?_⟩
    rwa [← hfield]
  · intro len len' pay pay' hlen hlen' heq
    exact encodeFrame_inj hlen hlen' heq

/-- Settles O12: `emitRun_busy` before the last step, and the state `built` after it. -/
theorem emitterComputesEncode : Obligations.EmitterComputesEncode := by
  intro s pay hr
  have hlen := (Memory.readRange_some hr).1
  refine ⟨fun k hk => emitRun_busy hr hk, built s pay, emitRun_built hr, rfl, built_wp_toNat s pay, rfl,
    built_idx_toNat s pay, ?_⟩
  rw [← encodeFrame_eq_frame hlen]
  exact ⟨packetBytes_built hlen, Memory.read_ofBytes _, ⟨rfl, rfl, rfl, rfl⟩, rfl, rfl⟩

/-- Settles O13: SEND_PACKET starts the emitter at once, WRITE once its size and state checks have passed. -/
theorem busyEmitterStops : Obligations.BusyEmitterStops := by
  intro s len pay hbusy
  refine ⟨execSendPacket_busy len pay hbusy, fun hmin hmax hlc hopen => ?_⟩
  have hlife : lifecycle? s.lc = some .opened := by rw [hlc]; rfl
  exact execHostWrite_busy ((sizeOk_iff len).2 ⟨hmin, hmax⟩) hlife ((mayWrite_iff _ hlife).2 ⟨hlc, hopen⟩) hbusy

end Sys2Proof.Claims

/-! ## What the DmxWriter's operations leave (41_dmx_writer.md) -/

namespace Sys2Proof.Machine

open Sys2Proof.Claims

/-! ### Whole next states -/

theorem lifecycle?_of_eq_code {lc : BitVec 2} {l : Lifecycle} (h : lc = l.code) : lifecycle? lc = some l :=
  h ▸ lifecycle?_code l

/-- The serial parameters the framer issues are those of R7, written out. -/
theorem serial_eq_serial8N1 : Config.serial = serial8N1 := rfl

/-- An answer is reported by writing its status, and nothing else (R136). -/
theorem report_eq_endWith (a : Answer) (s : State) : report a s = endWith (replyOf a) s := by
  cases a <;> rfl

/-- DISPOSE's status is that of the first failure of its two primitives (R105). -/
theorem replyOf_firstFailure (r1 r2 : Answer) : replyOf (firstFailure r1 r2) = disposeReply r1 r2 := by
  cases r1 <;> rfl

/-- CLOSE's lifecycle write, by the code of `lc` (R103). -/
theorem closedFrom_code_eq {lc : BitVec 2} {l : Lifecycle} (hlc : lifecycle? lc = some l) :
    (closedFrom l).code = if lc = 1 then 2 else lc := by
  rw [lifecycle?_eq_some hlc]
  cases l <;> rfl

/-- The name latched for OPEN does not depend on the exchange, nor the exchange on the name latched. -/
theorem answered_latchName (p : Prim) (a : Answer) (n : PortName) (s : State) :
    answered p a (latchName n s) = latchName n (answered p a s) := by
  simp only [answered, afterAnswer, latchName]
  split <;> rfl

/-- Two primitives in a row: two answers taken, two exchanges in the trace. -/
theorem answered_answered (p q : Prim) (a b : Answer) (s : State) :
    answered q b (answered p a s) =
      { afterAnswer (afterAnswer s) with
        trace := s.trace ++ [{ prim := p, answer := a }, { prim := q, answer := b }] } := by
  rw [answered, answered_trace, List.append_assoc]
  simp only [answered, afterAnswer]
  cases s.tAnswers with
  | nil => rfl
  | cons c cs => cases cs <;> rfl

/-- Dropping the payload of a WRITE leaves its operand register and its sample. -/
theorem dropPayload_writing (len : Len) (pay : List Byte) (s : State) :
    dropPayload (writing len pay s) = { afterSample s with opLen := len, pay := [] } := by
  simp only [writing, afterSample, latchPayload, dropPayload]
  split <;> rfl

/-- The primitive of a WRITE gets the answer that comes after one sample of `t_is_open`. -/
theorem nextAnswer_writing (len : Len) (pay : List Byte) (s : State) :
    nextAnswer (writing len pay s) = nextAnswer (afterSample s) :=
  nextAnswer_congr (by simp [writing]) (by simp [writing])

/-- The primitive that follows another gets the answer after the one taken. -/
theorem nextAnswer_answered (p : Prim) (a : Answer) (s : State) :
    nextAnswer (answered p a s) = nextAnswer (afterAnswer s) :=
  nextAnswer_congr (by simp) (by simp)

/-- CLOSED, OPEN goes on where the handle is held and REOPEN_AFTER_CLOSE says so (D5, D6). -/
theorem mayOpen_closed (reopen released : Bool) : mayOpen reopen released .closed = (!released && reopen) := rfl

end Sys2Proof.Machine

namespace Sys2Proof.Claims

open Sys2Proof.Machine

/-! ### WRITE (R102) -/

/-- Settles O16: both checks pass, the packet sent is the written-out frame, and the rest are `written`'s fields. -/
theorem writeSendsTheFrame : Obligations.WriteSendsTheFrame := by
  intro s len pay a hmin hmax hlc hopen hidle hlen hans
  have hlife : lifecycle? s.lc = some .opened := lifecycle?_of_eq_code hlc
  have hmay : mayWrite (sampleIsOpen s) .opened = true := hopen
  refine ⟨written len pay a s, execHostWrite_sends ((sizeOk_iff len).2 ⟨hmin, hmax⟩) hlife hmay hidle hlen.ge
    ((nextAnswer_writing len pay s).trans hans), ?_⟩
  simp [written, writing, report_eq_endWith, SameRegisters, encodeFrame_eq_frame hlen]

/-- Settles O14: the size check is WRITE's first, and it fails. -/
theorem writeOfBadSizeIsRejectedFirst : Obligations.WriteOfBadSizeIsRejectedFirst := by
  intro s len pay hsize
  have hbad : sizeOk len = false := by
    rw [Bool.eq_false_iff, ne_eq, sizeOk_iff]
    omega
  exact execHostWrite_badSize hbad

/-- Settles O15: the size check passes, and the state check asks for both what `lc` and what the line says. -/
theorem writeWhenNotOpenIsRejected : Obligations.WriteWhenNotOpenIsRejected := by
  intro s len pay hmin hmax hlegal hclosed
  obtain ⟨l, hlc⟩ := lifecycle?_of_legal hlegal
  have hmay : mayWrite (sampleIsOpen s) l = false := by
    rw [Bool.eq_false_iff, ne_eq, mayWrite_iff _ hlc]
    rintro ⟨hopened, hopen⟩
    simp [hopened, hopen] at hclosed
  rw [exec, execHostWrite_notOpen ((sizeOk_iff len).2 ⟨hmin, hmax⟩) hlc hmay, dropPayload_writing]
  rfl

/-! ### OPEN (R101) -/

/-- Settles O21: UNOPENED lets OPEN through to T_OPEN; the next state is read off for each kind of answer. -/
theorem openFromUnopened : Obligations.OpenFromUnopened := by
  intro s n a hname hlc hans
  rw [exec, execHostOpen_asks (l := .unopened) hname (lifecycle?_of_eq_code hlc) rfl hans, answered_latchName]
  cases a <;> rfl

/-- Settles O22: an OPEN framer turns OPEN away. -/
theorem openOnAlreadyOpen : Obligations.OpenOnAlreadyOpen := by
  intro s n hname hlc
  exact execHostOpen_refuses (l := .opened) hname (lifecycle?_of_eq_code hlc) rfl

/-- Settles O23: a CLOSED framer without its handle turns OPEN away, whatever REOPEN_AFTER_CLOSE is. -/
theorem openAfterDispose : Obligations.OpenAfterDispose := by
  intro s n hname hlc hrel
  have hmay : mayOpen Config.reopenAfterClose s.released .closed = false := by simp [mayOpen_closed, hrel]
  exact execHostOpen_refuses (l := .closed) hname (lifecycle?_of_eq_code hlc) hmay

/-- Settles O24: with the handle held the lifecycle test is REOPEN_AFTER_CLOSE itself, taken at both its values. -/
theorem openAfterClose : Obligations.OpenAfterClose := by
  intro s n a hname hlc hheld hans
  have hlife : lifecycle? s.lc = some .closed := lifecycle?_of_eq_code hlc
  have hmay : mayOpen Config.reopenAfterClose s.released .closed = Config.reopenAfterClose := by
    simp [mayOpen_closed, hheld]
  cases hreopen : Config.reopenAfterClose with
  | true =>
    refine ⟨_, execHostOpen_asks hname hlife (hmay.trans hreopen) hans, ?_⟩
    cases a <;> simp [SameEmitter, SameBytes, SameRegisters, hheld, serial_eq_serial8N1, replyOf, Lifecycle.code]
  | false =>
    refine ⟨_, execHostOpen_refuses hname hlife (hmay.trans hreopen), ?_⟩
    simp [SameEmitter, SameBytes, SameRegisters, hheld]

/-! ### CLOSE, NAME, DISPOSE, the reserved codes (R103 to R107) -/

/-- Settles O26: T_CLOSE is issued, and both the lifecycle write and the report follow its answer. -/
theorem closeWhileHandleHeld : Obligations.CloseWhileHandleHeld := by
  intro s a hheld hlegal hans
  obtain ⟨l, hlc⟩ := lifecycle?_of_legal hlegal
  rw [exec, execHostClose_asks hheld hlc hans, report_eq_endWith, closedFrom_code_eq hlc]
  rfl

/-- Settles O27: CLOSE looks at `released` first. -/
theorem closeAfterDispose : Obligations.CloseAfterDispose := fun _ hrel => if_pos hrel

/-- Settles O28: NAME answers with the register where it is valid, and with none elsewhere. -/
theorem nameReturnsTheBoundName : Obligations.NameReturnsTheBoundName := by
  intro s
  constructor
  · intro hvalid
    rw [exec, execHostName, if_pos hvalid]
    rfl
  · intro hinvalid
    rw [exec, execHostName, if_neg (Bool.eq_false_iff.1 hinvalid)]
    rfl

/-- Settles O29: T_CLOSE then T_DISPOSE, each with its own answer, and the first failure as the status. -/
theorem disposeReleasesTheHandle : Obligations.DisposeReleasesTheHandle := by
  intro s r1 r2 hheld hclose hdispose
  have hdispose' : nextAnswer (answered .close r1 s) = some r2 := (nextAnswer_answered _ _ _).trans hdispose
  rw [exec, execHostDispose_asks hheld hclose hdispose', disposed, report_eq_endWith, replyOf_firstFailure,
    answered_answered]
  rfl

/-- Settles O30: DISPOSE looks at `released` first. -/
theorem disposeAgainDoesNothing : Obligations.DisposeAgainDoesNothing := fun _ hrel => if_pos hrel

/-- Settles O31: the three codes have one meaning, `illegalOp`. -/
theorem reservedCodesAnswerIllegalOp : Obligations.ReservedCodesAnswerIllegalOp := fun _ => ⟨rfl, rfl, rfl⟩

/-! ### The primitives an operation issues (R108) -/

/-- Settles O37: each way of completing with the exchanges it adds to the trace. -/
theorem operationsIssueOnlyTheirOwnPrimitives : Obligations.OperationsIssueOnlyTheirOwnPrimitives := by
  intro i s t hx
  cases completes_of_exec hx with
  | openTurnedAway => exact ⟨[], by simp, .inl rfl⟩
  | @openAnswered _ n _ a => exact ⟨[⟨.openPort n Config.serial, a⟩], by simp, .inr rfl⟩
  | writeBadSize => exact ⟨[], by simp, .inl rfl⟩
  | writeNotOpen => exact ⟨[], by simp [writing], .inl rfl⟩
  | @writeAnswered _ len pay _ a =>
    exact ⟨[⟨.write (encodeFrame len pay), a⟩], by simp [written, writing], .inr ⟨rfl, by simp [written]⟩⟩
  | closeReleased => exact ⟨[], by simp, .inl rfl⟩
  | @closeAnswered _ _ a => exact ⟨[⟨.close, a⟩], by simp, .inr rfl⟩
  | disposeReleased => exact ⟨[], by simp, .inl rfl⟩
  | @disposeAnswered _ r1 r2 => exact ⟨[⟨.close, r1⟩, ⟨.dispose, r2⟩], by simp [disposed], .inr rfl⟩
  | name | reserved0 | reserved6 | reserved7 | sendPacket => exact ⟨[], by simp, rfl⟩
  | tOpen | tWrite | tClose | tDispose => exact ⟨_, answered_trace _ _ _, rfl⟩

end Sys2Proof.Claims

/-! ## The primitive port, operation by operation (R131 to R134) -/

namespace Sys2Proof.Machine

open Sys2Proof.Claims

/-- An OPEN that goes on to T_OPEN has not been turned away (R101; D5, D6). -/
theorem not_openTurnedAway_of_mayOpen {s : State} {l : Lifecycle} (hlc : lifecycle? s.lc = some l)
    (hmay : mayOpen Config.reopenAfterClose s.released l = true) : ¬ openTurnedAway s := by
  rcases (mayOpen_iff _ _ hlc).1 hmay with h0 | ⟨h2, hheld, hreopen⟩
  · simp [openTurnedAway, h0]
  · simp [openTurnedAway, h2, hheld, hreopen]

/-- A WRITE of these operands passes both its checks (R102 steps 1 and 2). -/
def passesWriteChecks (s : State) (len : Len) : Prop :=
  24 ≤ len.toNat ∧ len.toNat ≤ 512 ∧ s.lc = 1 ∧ sampleIsOpen s = true

/-- `HostIssues i s t issued`: host operation `i`, completing from `s` in `t`, has put `issued` on the primitive port.
One constructor for silence, and one for each operation that issues anything. -/
inductive HostIssues : Instr → State → State → List Exchange → Prop where
  /-- Nothing is issued: no transport failure is reported, and no rule of the operation calls for a primitive. -/
  | nothing {i : Instr} {s t : State} (hreply : ∀ e, t.reply ≠ some (.error (.transport e)))
      (hwrite : ∀ len pay, i = .hostWrite len pay → ¬ passesWriteChecks s len)
      (hclose : i = .hostClose ∨ i = .hostDispose → s.released = true) : HostIssues i s t []
  /-- OPEN's T_OPEN (R101, R131). -/
  | openPort {s : State} {n : PortName} (a : Answer) (hmay : ¬ openTurnedAway s) :
      HostIssues (.hostOpen n) s (finishOpen a (answered (.openPort n Config.serial) a (latchName n s)))
        [{ prim := .openPort n serial8N1, answer := a }]
  /-- WRITE's T_WRITE (R102, R132). -/
  | write {s t : State} {len : Len} {pay : List Byte} (a : Answer) (hmin : 24 ≤ len.toNat) (hmax : len.toNat ≤ 512)
      (hpay : len.toNat ≤ pay.length) (hregs : SameRegisters s t) (hreply : t.reply = some (replyOf a)) :
      HostIssues (.hostWrite len pay) s t [{ prim := .write (encodeFrame len pay), answer := a }]
  /-- CLOSE's T_CLOSE (R103, R133). -/
  | close {s t : State} (a : Answer) (hheld : s.released = false) (hreply : t.reply = some (replyOf a)) :
      HostIssues .hostClose s t [{ prim := .close, answer := a }]
  /-- The first DISPOSE's T_CLOSE and T_DISPOSE (R105, R133, R134). -/
  | dispose {s t : State} (r1 r2 : Answer) (hheld : s.released = false) (hrel : t.released = true)
      (hreply : t.reply = some (disposeReply r1 r2)) :
      HostIssues .hostDispose s t [{ prim := .close, answer := r1 }, { prim := .dispose, answer := r2 }]

/-- What a completing host operation adds to the trace is what it has issued. -/
theorem hostIssues_of_exec {i : Instr} {s t : State} (hi : isHostOp i = true) (hx : exec i s = .next t) :
    ∃ issued, t.trace = s.trace ++ issued ∧ HostIssues i s t issued := by
  cases completes_of_exec hx with
  | openTurnedAway | name | reserved0 | reserved6 | reserved7 =>
    exact ⟨[], by simp, .nothing (by simp) (by simp) (by simp)⟩
  | @openAnswered _ n l a _ hlc hmay =>
    exact ⟨_, by simp [serial_eq_serial8N1], .openPort a (not_openTurnedAway_of_mayOpen hlc hmay)⟩
  | @writeBadSize _ len pay hsize =>
    refine ⟨[], by simp, .nothing (by simp) ?_ (by simp)⟩
    rintro len' pay' ⟨⟩ ⟨hmin, hmax, -⟩
    simp [(sizeOk_iff len).2 ⟨hmin, hmax⟩] at hsize
  | @writeNotOpen _ len pay l _ hlc hmay =>
    refine ⟨[], by simp [writing], .nothing (by simp) ?_ (by simp)⟩
    rintro len' pay' ⟨⟩ ⟨-, -, hopen⟩
    simp [(mayWrite_iff _ hlc).2 hopen] at hmay
  | @writeAnswered _ len pay l a hsize _ _ _ hpay =>
    obtain ⟨hmin, hmax⟩ := (sizeOk_iff len).1 hsize
    refine ⟨_, by simp [written, writing], .write a hmin hmax hpay ?_ ?_⟩
    · simp [SameRegisters, written, writing]
    · simp [written, report_eq_endWith]
  | closeReleased hrel | disposeReleased hrel =>
    exact ⟨[], by simp, .nothing (by simp) (by simp) fun _ => hrel⟩
  | @closeAnswered _ l a hheld => exact ⟨_, by simp, .close a hheld (by simp [report_eq_endWith])⟩
  | @disposeAnswered _ r1 r2 hheld =>
    refine ⟨_, by simp [disposed], .dispose r1 r2 hheld (by simp [disposed]) ?_⟩
    simp [disposed, report_eq_endWith, replyOf_firstFailure]
  | sendPacket | tOpen | tWrite | tClose | tDispose => cases hi

/-! ### CLOSE's and DISPOSE's registers (R103, R105) -/

/-- Two states whose registers are those of a third have the same registers. -/
theorem sameRegisters_of_common {u t t' : State} (h : SameRegisters u t) (h' : SameRegisters u t') :
    SameRegisters t t' := by
  obtain ⟨hlc, hrel, hvalid, hname⟩ := h
  obtain ⟨hlc', hrel', hvalid', hname'⟩ := h'
  exact ⟨hlc'.trans hlc.symm, hrel'.trans hrel.symm, hvalid'.trans hvalid.symm, hname'.trans hname.symm⟩

/-- CLOSE's registers, whatever T_CLOSE answers. -/
theorem registers_of_close {s t : State} (hx : exec .hostClose s = .next t) :
    SameRegisters { s with lc := if s.released = false ∧ s.lc = 1 then 2 else s.lc } t := by
  cases completes_of_exec hx with
  | closeReleased hrel => simp [SameRegisters, hrel]
  | closeAnswered hheld hlc => simp [SameRegisters, hheld, closedFrom_code_eq hlc]

/-- DISPOSE's registers, whatever its two primitives answer. -/
theorem registers_of_dispose {s t : State} (hx : exec .hostDispose s = .next t) :
    SameRegisters { s with lc := if s.released = true then s.lc else 2, released := true } t := by
  cases completes_of_exec hx with
  | disposeReleased hrel => simp [SameRegisters, hrel]
  | disposeAnswered hheld => simp [SameRegisters, hheld, disposed, Lifecycle.code]

/-! ### Silence once the handle is released (R134) -/

/-- A released framer is CLOSED, so OPEN, WRITE, CLOSE and DISPOSE all end before their first primitive. -/
theorem silent_of_released {i : Instr} {s t : State} (hi : Reached i) (h : FramerInv s) (hrel : s.released = true)
    (hx : exec i s = .next t) : t.trace = s.trace ∧ t.released = true := by
  cases completes_of_exec hx with
  | openAnswered _ hlc hmay => simp [released_of_mayOpen h hlc hmay] at hrel
  | writeAnswered _ hlc hmay =>
    have hopened := ((mayWrite_iff _ hlc).1 hmay).1
    simp [h.releasedClosed hrel, Lifecycle.code] at hopened
  | closeAnswered hheld | disposeAnswered hheld => simp [hheld] at hrel
  | tOpen | tWrite | tClose | tDispose => cases hi
  | _ => simp [writing, hrel]

end Sys2Proof.Machine

namespace Sys2Proof.Claims

open Sys2Proof.Machine

/-- Settles O33: of what a host operation issues, only OPEN's exchange is a T_OPEN; its two answers are `finishOpen`'s
two cases. -/
theorem tOpenIsIssuedByOpenOnly : Obligations.TOpenIsIssuedByOpenOnly := by
  refine ⟨fun n => ⟨_, rfl, rfl, rfl, rfl⟩, fun i s t hi hx => ?_⟩
  obtain ⟨issued, htrace, h⟩ := hostIssues_of_exec hi hx
  refine ⟨issued, htrace, ?_⟩
  cases h with
  | openPort a hmay =>
    intro x hmem n serial hprim
    obtain rfl := List.mem_singleton.1 hmem
    cases hprim
    refine ⟨rfl, rfl, rfl, hmay, ?_, ?_⟩
    · rintro rfl
      simp [Lifecycle.code, lineOpen, lineAfter]
    · rintro e rfl
      simp [SameRegisters]
  | nothing | write | close | dispose => simp

/-- Settles O34: of what a host operation issues, only WRITE's exchange is a T_WRITE, and a WRITE that passes its checks
is not silent. -/
theorem tWriteIsIssuedByWriteOnly : Obligations.TWriteIsIssuedByWriteOnly := by
  refine ⟨fun bytes => ⟨_, rfl, rfl, rfl⟩, fun i s t hi hx => ?_⟩
  obtain ⟨issued, htrace, h⟩ := hostIssues_of_exec hi hx
  refine ⟨issued, htrace, ?_⟩
  cases h with
  | nothing _ hwrite =>
    refine ⟨by simp, fun len pay hi' hmin hmax hlc hopen => ?_⟩
    exact absurd ⟨hmin, hmax, hlc, hopen⟩ (hwrite len pay hi')
  | @write _ _ len pay a hmin hmax hpay hregs hreply =>
    have hlen := encodeFrame_length hpay
    constructor
    · intro x hmem bytes hprim
      obtain rfl := List.mem_singleton.1 hmem
      cases hprim
      exact ⟨len, pay, rfl, rfl, hlen, by omega, by omega, rfl, hregs, hreply⟩
    · rintro len' pay' ⟨⟩ - - - -
      exact ⟨_, rfl, rfl⟩
  | openPort | close | dispose => simp

/-- Settles O35: of what a host operation issues, T_CLOSE stands once in CLOSE's and in DISPOSE's, and the registers of
both are functions of the registers before. -/
theorem tCloseIsIssuedByCloseAndDispose : Obligations.TCloseIsIssuedByCloseAndDispose := by
  refine ⟨⟨_, rfl, rfl⟩, fun i s t hi hx => ?_, fun i s t t' answers hi hx hx' => ?_⟩
  · obtain ⟨issued, htrace, h⟩ := hostIssues_of_exec hi hx
    refine ⟨issued, htrace, ?_⟩
    cases h with
    | nothing _ _ hclose => exact ⟨by simp, fun hi' => by simp [hclose hi']⟩
    | openPort | write => simp
    | close a hheld hreply => simp +contextual [hheld, hreply, replyOf]
    | dispose r1 r2 hheld _ hreply => simp +contextual [hheld, hreply, disposeReply]
  · rcases hi with rfl | rfl
    · have hregs' := registers_of_close hx'
      exact sameRegisters_of_common (registers_of_close hx) hregs'
    · have hregs' := registers_of_dispose hx'
      exact sameRegisters_of_common (registers_of_dispose hx) hregs'

/-- Settles O36: of what a host operation issues, only the first DISPOSE's second exchange is a T_DISPOSE; afterwards
the framer is silent. -/
theorem tDisposeIsIssuedOnce : Obligations.TDisposeIsIssuedOnce := by
  refine ⟨⟨_, rfl, rfl⟩, fun i s t hi hx => ?_, fun s t h hrel hreset hstep => ?_⟩
  · obtain ⟨issued, htrace, h⟩ := hostIssues_of_exec hi hx
    refine ⟨issued, htrace, ?_⟩
    cases h with
    | nothing _ _ hclose => exact ⟨by simp, fun hi' => by simp [hclose (.inr hi')]⟩
    | openPort | write | close => simp
    | dispose r1 r2 hheld hrel hreply => simp [hheld, hrel, hreply]
  · obtain ⟨-, rfl⟩ | ⟨rest, hp, -⟩ | ⟨r, rest, i, -, -, hi, hx⟩ := step_eq_next hstep
    · exact ⟨rfl, hrel⟩
    · exact absurd (by simp [hp]) hreset
    · exact silent_of_released (s := { s with pending := rest }) hi (inv_takeRequest rest h) hrel hx

/-- Settles O38: with one exchange its answer is the status; with DISPOSE's two, the first failure is. -/
theorem transportFailuresAreReportedVerbatim : Obligations.TransportFailuresAreReportedVerbatim := by
  intro i s t hi hx
  obtain ⟨issued, htrace, h⟩ := hostIssues_of_exec hi hx
  refine ⟨issued, htrace, ?_⟩
  cases h with
  | nothing hreply => exact ⟨fun e he => absurd he (hreply e), by simp⟩
  | openPort a => cases a <;> simp
  | write a _ _ _ _ hreply | close a _ hreply => cases a <;> simp [hreply, replyOf]
  | dispose r1 r2 _ _ hreply =>
    cases r1 with
    | fail e => simp [hreply, disposeReply]
    | ok => cases r2 <;> simp [hreply, disposeReply, replyOf]

end Sys2Proof.Claims

/-! ## Answers and silence of the transport (R136, R138) -/

namespace Sys2Proof.Machine

open Sys2Proof.Claims

/-! ### A primitive on its own -/

theorem primitive_of_answer {p : Prim} {s : State} {a : Answer} (hans : nextAnswer s = some a) :
    primitive p s = .next (answered p a s) := ask_of_answer _ hans

theorem primitive_of_silence {p : Prim} {s : State} (hnone : nextAnswer s = none) :
    primitive p s = .fault .transportNeverAnswers := ask_of_silence _ hnone

theorem execTOpen_of_fits {n : PortName} (s : State) (hname : nameFits n = true) :
    execTOpen n s = primitive (.openPort n Config.serial) s := withName_of_fits _ hname

/-! ### A primitive that is never answered, inside each operation that issues one -/

theorem execHostOpen_silence {n : PortName} {s : State} {l : Lifecycle} (hname : nameFits n = true)
    (hlc : lifecycle? s.lc = some l) (hmay : mayOpen Config.reopenAfterClose s.released l = true)
    (hnone : nextAnswer s = none) : execHostOpen n s = .fault .transportNeverAnswers := by
  have hnone' : nextAnswer (latchName n s) = none := hnone
  rw [execHostOpen, openWith, latchName_opName, withName_of_fits _ hname]
  simp [hlc, hmay, ask_of_silence _ hnone']

theorem execHostWrite_silence {len : Len} {pay : List Byte} {s : State} {l : Lifecycle} (hsize : sizeOk len = true)
    (hlc : lifecycle? s.lc = some l) (hmay : mayWrite (sampleIsOpen s) l = true) (hidle : s.ph = .idle)
    (hpay : len.toNat ≤ pay.length) (hnone : nextAnswer (afterSample s) = none) :
    execHostWrite len pay s = .fault .transportNeverAnswers := by
  rw [execHostWrite_passed hsize hlc hmay, if_pos hidle, if_pos hpay, nextAnswer_writing, hnone]

theorem execHostClose_silence {s : State} {l : Lifecycle} (hheld : s.released = false)
    (hlc : lifecycle? s.lc = some l) (hnone : nextAnswer s = none) :
    execHostClose s = .fault .transportNeverAnswers := by
  simp [execHostClose, hheld, hlc, ask_of_silence _ hnone]

/-- DISPOSE at its first primitive. -/
theorem execHostDispose_silence {s : State} (hheld : s.released = false) (hnone : nextAnswer s = none) :
    execHostDispose s = .fault .transportNeverAnswers := by
  simp [execHostDispose, hheld, ask_of_silence _ hnone]

/-- DISPOSE at its second primitive. -/
theorem execHostDispose_silence_second {s : State} {r1 : Answer} (hheld : s.released = false)
    (hclose : nextAnswer s = some r1) (hnone : nextAnswer (afterAnswer s) = none) :
    execHostDispose s = .fault .transportNeverAnswers := by
  have hnone' : nextAnswer (answered .close r1 s) = none := (nextAnswer_answered _ _ _).trans hnone
  simp [execHostDispose, hheld, ask_of_answer _ hclose, ask_of_silence _ hnone']

/-- Silence is one of the answers given, so a sample of `t_is_open` does not end it (log 4). -/
theorem nextAnswer_afterSample_of_silence {s : State} (hnone : nextAnswer s = none) :
    nextAnswer (afterSample s) = none := by
  cases hgiven : s.tAnswers with
  | nil => simp [nextAnswer, hgiven] at hnone
  | cons a rest => simpa [nextAnswer, hgiven] using hnone

/-! ### TC5 (R137) -/

/-- Under TC5 every primitive is answered: a given answer is there, and a free value is one. -/
theorem nextAnswer_of_tc5 {s : State} (h : TC5 s) : ∃ a, nextAnswer s = some a := by
  unfold TC5 at h
  cases hgiven : s.tAnswers with
  | nil => exact ⟨Config.freeAnswer s.draws, by simp [nextAnswer, hgiven]⟩
  | cons a rest =>
    have hsome : a ≠ none := by
      rintro rfl
      simp [hgiven] at h
    obtain ⟨a, rfl⟩ := Option.ne_none_iff_exists'.1 hsome
    exact ⟨a, by simp [nextAnswer, hgiven]⟩

/-- TC5 goes on for as long as answers are only taken. -/
theorem tc5_of_suffix {s t : State} (h : TC5 s) (hsuffix : t.tAnswers <:+ s.tAnswers) : TC5 t :=
  fun hnone => h (hsuffix.mem hnone)

/-- An instruction takes answers from the front, and gives none. -/
theorem tAnswers_suffix {i : Instr} {s t : State} (h : Completes i s t) : t.tAnswers <:+ s.tAnswers := by
  cases h with
  | openAnswered | closeAnswered | tOpen | tWrite | tClose | tDispose => simp [List.tail_suffix]
  | writeAnswered => simp [written, writing, List.tail_suffix]
  | disposeAnswered => simpa [disposed] using (List.tail_suffix _).trans (List.tail_suffix s.tAnswers)
  | _ => simp [writing]

/-! ### Well-formed host operations return (R63, R186) -/

theorem nameError_isNone (n : PortName) : (nameError n).isNone = nameFits n := by
  simp only [nameError, nameFits]
  cases n.isEmpty with
  | true => rfl
  | false => cases nameShort n <;> rfl

theorem length_of_wf_write {len : Len} {pay : List Byte} (h : (Instr.hostWrite len pay).wf = true)
    (hsize : sizeOk len = true) : len.toNat ≤ pay.length := by
  by_contra hshort
  simp [Instr.wf, Instr.wfError, hsize, hshort] at h

theorem exec_hostOpen_returns {n : PortName} {s : State} (hinv : FramerInv s) (hans : TC5 s)
    (hname : nameFits n = true) : ∃ t, exec (.hostOpen n) s = .next t := by
  obtain ⟨l, hlc⟩ := Option.isSome_iff_exists.1 hinv.lcLegal
  obtain ⟨a, ha⟩ := nextAnswer_of_tc5 hans
  cases hmay : mayOpen Config.reopenAfterClose s.released l with
  | true => exact ⟨_, execHostOpen_asks hname hlc hmay ha⟩
  | false => exact ⟨_, execHostOpen_refuses hname hlc hmay⟩

theorem exec_hostWrite_returns {len : Len} {pay : List Byte} {s : State} (hinv : FramerInv s) (hans : TC5 s)
    (hpay : sizeOk len = true → len.toNat ≤ pay.length) : ∃ t, exec (.hostWrite len pay) s = .next t := by
  obtain ⟨l, hlc⟩ := Option.isSome_iff_exists.1 hinv.lcLegal
  cases hsize : sizeOk len with
  | false => exact ⟨_, execHostWrite_badSize hsize⟩
  | true =>
    cases hmay : mayWrite (sampleIsOpen s) l with
    | false => exact ⟨_, execHostWrite_notOpen hsize hlc hmay⟩
    | true =>
      have hans' : TC5 (writing len pay s) := tc5_of_suffix hans (by simp [writing])
      obtain ⟨a, ha⟩ := nextAnswer_of_tc5 hans'
      exact ⟨_, execHostWrite_sends hsize hlc hmay hinv.emitterIdle (hpay hsize) ha⟩

theorem exec_hostClose_returns {s : State} (hinv : FramerInv s) (hans : TC5 s) : ∃ t, exec .hostClose s = .next t := by
  obtain ⟨l, hlc⟩ := Option.isSome_iff_exists.1 hinv.lcLegal
  obtain ⟨a, ha⟩ := nextAnswer_of_tc5 hans
  cases hrel : s.released with
  | true => exact ⟨_, closeAfterDispose s hrel⟩
  | false => exact ⟨_, execHostClose_asks hrel hlc ha⟩

theorem exec_hostDispose_returns {s : State} (hans : TC5 s) : ∃ t, exec .hostDispose s = .next t := by
  cases hrel : s.released with
  | true => exact ⟨_, disposeAgainDoesNothing s hrel⟩
  | false =>
    obtain ⟨r1, hclose⟩ := nextAnswer_of_tc5 hans
    have hans' : TC5 (answered .close r1 s) := tc5_of_suffix hans (by simp [List.tail_suffix])
    obtain ⟨r2, hdispose⟩ := nextAnswer_of_tc5 hans'
    exact ⟨_, execHostDispose_asks hrel hclose hdispose⟩

theorem exec_host_returns {i : Instr} {s : State} (hinv : FramerInv s) (hans : TC5 s) (hi : isHostOp i = true)
    (hwf : i.wf = true) : ∃ t, exec i s = .next t := by
  cases i with
  | hostOpen n => exact exec_hostOpen_returns hinv hans ((nameError_isNone n).symm.trans hwf)
  | hostWrite len pay => exact exec_hostWrite_returns hinv hans (length_of_wf_write hwf)
  | hostClose => exact exec_hostClose_returns hinv hans
  | hostDispose => exact exec_hostDispose_returns hans
  | hostName | reserved0 | reserved6 | reserved7 => exact ⟨_, rfl⟩
  | sendPacket | tOpen | tWrite | tClose | tDispose => cases hi

end Sys2Proof.Machine

namespace Sys2Proof.Claims

open Sys2Proof.Machine

/-- Settles O32: each primitive is one exchange, which `answered` writes out. -/
theorem primitivesOnTheirOwn : Obligations.PrimitivesOnTheirOwn := by
  intro s a hans
  refine ⟨fun n hname => ?_, fun bytes => ?_, ?_, ?_⟩
  · rw [exec, execTOpen_of_fits s hname, primitive_of_answer hans]
    rfl
  · exact primitive_of_answer hans
  · exact primitive_of_answer hans
  · exact primitive_of_answer hans

/-- Settles O40: the two cases of each list of inputs. -/
theorem inputsAreReadInOrder : Obligations.InputsAreReadInOrder := by
  intro s a rest b bs
  refine ⟨fun hgiven => ?_, fun hnone => ?_, fun hgiven => ?_, fun hnone => ?_⟩
  · simp [nextAnswer, afterAnswer, hgiven]
  · simp [nextAnswer, afterAnswer, hnone]
  · simp [sampleIsOpen, afterSample, hgiven]
  · simp [sampleIsOpen, afterSample, hnone]

/-- Settles O41: each operation's tests pass, and the primitive it then issues is not answered. -/
theorem unansweredPrimitiveIsStuck : Obligations.UnansweredPrimitiveIsStuck := by
  refine ⟨fun s r1 hheld hclose hnone => execHostDispose_silence_second hheld hclose hnone, fun s hnone => ?_⟩
  refine ⟨fun n hname hlc hheld hreopen => ?_, fun n hname hlc => ?_, fun hheld hlegal => ?_,
    fun hheld => execHostDispose_silence hheld hnone, fun len pay hmin hmax hlc hopen hidle hlen => ?_,
    fun n hname => ?_, fun bytes => primitive_of_silence hnone, primitive_of_silence hnone,
    primitive_of_silence hnone⟩
  · have hmay : mayOpen Config.reopenAfterClose s.released .closed = true := by simp [mayOpen_closed, hheld, hreopen]
    exact execHostOpen_silence (l := .closed) hname (lifecycle?_of_eq_code hlc) hmay hnone
  · exact execHostOpen_silence (l := .unopened) hname (lifecycle?_of_eq_code hlc) rfl hnone
  · obtain ⟨l, hlc⟩ := lifecycle?_of_legal hlegal
    exact execHostClose_silence hheld hlc hnone
  · have hmay : mayWrite (sampleIsOpen s) .opened = true := hopen
    exact execHostWrite_silence (l := .opened) ((sizeOk_iff len).2 ⟨hmin, hmax⟩) (lifecycle?_of_eq_code hlc) hmay
      hidle hlen.ge (nextAnswer_afterSample_of_silence hnone)
  · rw [exec, execTOpen_of_fits s hname, primitive_of_silence hnone]

/-- Settles O54: an OPEN framer's line is open by the invariant, and under TC1 that is what WRITE samples. -/
theorem underTC1WriteTestsLifecycle : Obligations.UnderTC1WriteTestsLifecycle := by
  intro s t len pay hinv htc1 hmin hmax hx
  cases completes_of_exec hx with
  | writeBadSize hsize => simp [(sizeOk_iff len).2 ⟨hmin, hmax⟩] at hsize
  | writeNotOpen _ hlc hmay =>
    refine iff_of_true (by simp) fun hopened => ?_
    have hsample : sampleIsOpen s = true := htc1.trans (hinv.openLine hopened)
    simp [(mayWrite_iff _ hlc).2 ⟨hopened, hsample⟩] at hmay
  | @writeAnswered _ _ _ _ a _ hlc hmay =>
    have hopened : s.lc = 1 := ((mayWrite_iff _ hlc).1 hmay).1
    refine iff_of_false ?_ (not_not.2 hopened)
    cases a <;> simp [written]

/-- Settles O55: under TC5 no wait is without end, under the invariant no other stop is met, and answers are only
taken. -/
theorem underTC5EveryOperationReturns : Obligations.UnderTC5EveryOperationReturns := by
  intro i s hinv hans hi hwf
  obtain ⟨t, hx⟩ := exec_host_returns hinv hans hi hwf
  have h := completes_of_exec hx
  exact ⟨t, hx, reply_isSome_of_host hi h, tc5_of_suffix hans (tAnswers_suffix h)⟩

end Sys2Proof.Claims

/-! ## The transport's `isOpen` and `portName` (R30, R135) -/

namespace Sys2Proof.Machine

open Sys2Proof.Claims

/-- The state with other inputs of the transport: `p` makes the `portName`, `q` the samples of `isOpen`. -/
def withInputs (p : Option PortName → Option PortName) (q : List Bool → List Bool) (s : State) : State :=
  { s with tPortName := p s.tPortName, tIsOpenIn := q s.tIsOpenIn }

section

variable (p : Option PortName → Option PortName) (q : List Bool → List Bool)

@[simp] theorem withInputs_lc (s : State) : (withInputs p q s).lc = s.lc := rfl
@[simp] theorem withInputs_released (s : State) : (withInputs p q s).released = s.released := rfl
@[simp] theorem withInputs_opName (s : State) : (withInputs p q s).opName = s.opName := rfl

/-! ### The operations carry both inputs along -/

@[simp] theorem endWith_withInputs (r : Reply) (s : State) :
    endWith r (withInputs p q s) = withInputs p q (endWith r s) := rfl

@[simp] theorem latchName_withInputs (n : PortName) (s : State) :
    latchName n (withInputs p q s) = withInputs p q (latchName n s) := rfl

@[simp] theorem latchPayload_withInputs (len : Len) (pay : List Byte) (s : State) :
    latchPayload len pay (withInputs p q s) = withInputs p q (latchPayload len pay s) := rfl

@[simp] theorem dropPayload_withInputs (s : State) :
    dropPayload (withInputs p q s) = withInputs p q (dropPayload s) := rfl

@[simp] theorem dropPacket_withInputs (s : State) :
    dropPacket (withInputs p q s) = withInputs p q (dropPacket s) := rfl

@[simp] theorem built_withInputs (s : State) (bs : List Byte) :
    built (withInputs p q s) bs = withInputs p q (built s bs) := rfl

@[simp] theorem report_withInputs (a : Answer) (s : State) :
    report a (withInputs p q s) = withInputs p q (report a s) := by cases a <;> rfl

@[simp] theorem finishOpen_withInputs (a : Answer) (s : State) :
    finishOpen a (withInputs p q s) = withInputs p q (finishOpen a s) := by cases a <;> rfl

@[simp] theorem answered_withInputs (x : Prim) (a : Answer) (s : State) :
    answered x a (withInputs p q s) = withInputs p q (answered x a s) := by
  simp only [answered, afterAnswer, withInputs]
  split <;> rfl

@[simp] theorem nextAnswer_withInputs (s : State) : nextAnswer (withInputs p q s) = nextAnswer s := rfl

/-- A primitive carries the inputs along where what follows it does. -/
theorem ask_withInputs (x : Prim) (s : State) {go : Answer → State → Out}
    (hgo : ∀ a t, go a (withInputs p q t) = mapNext (withInputs p q) (go a t)) :
    ask x (withInputs p q s) go = mapNext (withInputs p q) (ask x s go) := by
  cases hans : nextAnswer s with
  | none => simp only [ask, nextAnswer_withInputs, hans, mapNext]
  | some a => simp only [ask, nextAnswer_withInputs, hans, answered_withInputs, hgo]

theorem primitive_withInputs (x : Prim) (s : State) :
    primitive x (withInputs p q s) = mapNext (withInputs p q) (primitive x s) :=
  ask_withInputs p q x s fun _ _ => rfl

/-! ### Each operation that issues a primitive or builds a packet -/

theorem execHostOpen_withInputs (n : PortName) (s : State) :
    execHostOpen n (withInputs p q s) = mapNext (withInputs p q) (execHostOpen n s) := by
  have hask (x : Prim) := ask_withInputs p q x (latchName n s)
    (go := fun a t => .next (finishOpen a t)) fun a t => congrArg _ (finishOpen_withInputs p q a t)
  simp only [execHostOpen, openWith, latchName_withInputs, withInputs_lc, withInputs_released, withInputs_opName,
    mapNext_withName, hask]
  cases lifecycle? (latchName n s).lc with
  | none => rfl
  | some l => simp only [apply_ite (mapNext _)]; rfl

theorem execHostClose_withInputs (s : State) :
    execHostClose (withInputs p q s) = mapNext (withInputs p q) (execHostClose s) := by
  have hask (l : Lifecycle) := ask_withInputs p q .close s
    (go := fun a t => .next (report a { t with lc := (closedFrom l).code }))
    fun a t => congrArg _ (report_withInputs p q a { t with lc := (closedFrom l).code })
  simp only [execHostClose, withInputs_lc, withInputs_released, hask]
  cases s.released with
  | true => rfl
  | false => cases lifecycle? s.lc <;> rfl

theorem execHostDispose_withInputs (s : State) :
    execHostDispose (withInputs p q s) = mapNext (withInputs p q) (execHostDispose s) := by
  have hask := ask_withInputs p q .close s
    (go := fun r1 s1 => ask .dispose s1 fun r2 s2 =>
      .next (report (firstFailure r1 r2) { s2 with lc := Lifecycle.closed.code, released := true }))
    fun r1 s1 => ask_withInputs p q .dispose s1 fun r2 s2 => congrArg _
      (report_withInputs p q (firstFailure r1 r2) { s2 with lc := Lifecycle.closed.code, released := true })
  simp only [execHostDispose, withInputs_released, hask]
  cases s.released <;> rfl

theorem execSendPacket_withInputs (len : Len) (pay : List Byte) (s : State) :
    execSendPacket len pay (withInputs p q s) = mapNext (withInputs p q) (execSendPacket len pay s) := by
  simp only [execSendPacket_eq, apply_ite (mapNext _)]
  rfl

/-- Every instruction but WRITE carries both inputs along, and does not look at them. -/
theorem exec_withInputs {i : Instr} (hi : isWrite i = false) (s : State) :
    exec i (withInputs p q s) = mapNext (withInputs p q) (exec i s) := by
  cases i with
  | hostOpen n => exact execHostOpen_withInputs p q n s
  | hostClose => exact execHostClose_withInputs p q s
  | hostDispose => exact execHostDispose_withInputs p q s
  | sendPacket len pay => exact execSendPacket_withInputs p q len pay s
  | tOpen n => simp only [exec, execTOpen, primitive_withInputs, mapNext_withName]
  | tWrite | tClose | tDispose => exact primitive_withInputs p q _ s
  | hostName | reserved0 | reserved6 | reserved7 => rfl
  | hostWrite => cases hi

/-! ### WRITE samples `isOpen`, and carries the `portName` along -/

theorem writing_withPortName (len : Len) (pay : List Byte) (s : State) :
    writing len pay (withInputs p id s) = withInputs p id (writing len pay s) := by
  simp only [writing, afterSample, latchPayload, withInputs, id]
  split <;> rfl

theorem written_withPortName (len : Len) (pay : List Byte) (a : Answer) (s : State) :
    written len pay a (withInputs p id s) = withInputs p id (written len pay a s) := by
  simp [written, writing_withPortName]

theorem execHostWrite_withPortName (len : Len) (pay : List Byte) (s : State) :
    execHostWrite len pay (withInputs p id s) = mapNext (withInputs p id) (execHostWrite len pay s) := by
  cases hsize : sizeOk len with
  | false =>
    rw [execHostWrite_badSize hsize, execHostWrite_badSize hsize]
    rfl
  | true =>
    cases hlc : lifecycle? s.lc with
    | none =>
      rw [execHostWrite_illegal hsize hlc, execHostWrite_illegal (s := withInputs p id s) hsize hlc]
      rfl
    | some l =>
      cases hmay : mayWrite (sampleIsOpen s) l with
      | false =>
        rw [execHostWrite_notOpen hsize hlc hmay, execHostWrite_notOpen (s := withInputs p id s) hsize hlc hmay,
          writing_withPortName]
        rfl
      | true =>
        rw [execHostWrite_passed hsize hlc hmay, execHostWrite_passed (s := withInputs p id s) hsize hlc hmay,
          writing_withPortName, nextAnswer_withInputs]
        simp only [written_withPortName, apply_ite (mapNext _)]
        cases nextAnswer (writing len pay s) <;> rfl

end

end Sys2Proof.Machine

namespace Sys2Proof.Claims

open Sys2Proof.Machine

/-- Settles O39: every instruction but WRITE carries both inputs along, WRITE the `portName`. -/
theorem transportInputsAreReadByWriteOnly : Obligations.TransportInputsAreReadByWriteOnly := by
  constructor
  · intro i s p
    show exec i (withInputs (fun _ => p) id s) = mapNext (withInputs (fun _ => p) id) (exec i s)
    cases i with
    | hostWrite len pay => exact execHostWrite_withPortName _ len pay s
    | _ => exact exec_withInputs _ id rfl s
  · intro i s samples hi
    exact exec_withInputs id (fun _ => samples) hi s

end Sys2Proof.Claims

/-! ## The status codes and the errors (R150, R153, R154) -/

namespace Sys2Proof.Machine

open Sys2Proof.Claims

/-! ### A check that fails -/

/-- WRITE's size check fails outside 24 to 512 (R102 step 1). -/
theorem sizeOk_eq_false_iff (len : Len) : sizeOk len = false ↔ len.toNat < 24 ∨ 512 < len.toNat := by
  rw [Bool.eq_false_iff, ne_eq, sizeOk_iff]
  omega

/-- WRITE's state check fails where `lc` is not OPEN or the sample is 0 (R102 step 2; D7). -/
theorem mayWrite_eq_false_iff {lc : BitVec 2} {l : Lifecycle} (b : Bool) (hlc : lifecycle? lc = some l) :
    mayWrite b l = false ↔ lc ≠ 1 ∨ b = false := by
  rw [Bool.eq_false_iff, ne_eq, mayWrite_iff b hlc, Classical.not_and_iff_not_or_not, Bool.not_eq_true]

/-- An OPEN that fails the lifecycle tests is turned away (R101; D5, D6). -/
theorem openTurnedAway_of_mayOpen {s : State} {l : Lifecycle} (hlc : lifecycle? s.lc = some l)
    (hmay : mayOpen Config.reopenAfterClose s.released l = false) : openTurnedAway s := by
  have hs := lifecycle?_eq_some hlc
  cases l with
  | unopened => cases hmay
  | opened => exact .inl hs
  | closed =>
    rw [mayOpen_closed, Bool.and_eq_false_iff, Bool.not_eq_false'] at hmay
    exact .inr ⟨hs, hmay⟩

/-! ### An answer as a status -/

theorem reply_finishOpen (a : Answer) (s : State) : (finishOpen a s).reply = some (replyOf a) := by
  cases a <;> rfl

/-- The answer of one primitive becomes an error only as its own failure (R136). -/
theorem replyOf_eq_error {a : Answer} {k : ErrorKind} (h : replyOf a = .error k) :
    ∃ e, k = .transport e ∧ a = .fail e := by
  cases a with
  | ok => cases h
  | fail e => cases h; exact ⟨e, rfl, rfl⟩

theorem replyOf_eq_transport {a : Answer} {e : TErr} (h : replyOf a = .error (.transport e)) : a = .fail e := by
  obtain ⟨_, ⟨⟩, ha⟩ := replyOf_eq_error h
  exact ha

/-! ### What an error leaves unchanged -/

/-- The registers are written only where a primitive is issued, so an unchanged trace tells that they are unchanged. -/
theorem sameRegisters_of_trace_eq {i : Instr} {s t : State} (h : Completes i s t) (htrace : t.trace = s.trace) :
    SameRegisters s t := by
  cases h with
  | openAnswered | closeAnswered => simp at htrace
  | disposeAnswered => simp [disposed] at htrace
  | _ => simp [SameRegisters, writing, written]

/-- Every host operation that issues a primitive returns the status of an answer, for DISPOSE that of the first
failure. -/
theorem issues_nothing_or_replies {i : Instr} {s t : State} {issued : List Exchange}
    (h : HostIssues i s t issued) : issued = [] ∨ ∃ a, t.reply = some (replyOf a) := by
  cases h with
  | nothing => exact .inl rfl
  | openPort a => exact .inr ⟨a, reply_finishOpen a _⟩
  | write a _ _ _ _ hreply | close a _ hreply => exact .inr ⟨a, hreply⟩
  | dispose r1 r2 _ _ hreply => exact .inr ⟨firstFailure r1 r2, hreply.trans (by rw [replyOf_firstFailure])⟩

/-- An error that is no transport failure was raised by a check, before any primitive was issued and any register was
written. -/
theorem unchanged_of_validation_error {i : Instr} {s t : State} {k : ErrorKind} (hi : isHostOp i = true)
    (hx : exec i s = .next t) (hreply : t.reply = some (.error k)) (hk : ∀ e, k ≠ .transport e) :
    SameRegisters s t ∧ t.trace = s.trace := by
  obtain ⟨issued, htrace, h⟩ := hostIssues_of_exec hi hx
  obtain rfl | ⟨a, ha⟩ := issues_nothing_or_replies h
  · rw [List.append_nil] at htrace
    exact ⟨sameRegisters_of_trace_eq (completes_of_exec hx) htrace, htrace⟩
  · obtain ⟨e, he, -⟩ := replyOf_eq_error (Option.some.inj (ha.symm.trans hreply))
    exact absurd he (hk e)

end Sys2Proof.Machine

namespace Sys2Proof.Claims

open Sys2Proof.Machine

/-- Settles O5: a code stands for a kind, whatever value it carries. -/
theorem statusCodesAreTheTable : Obligations.StatusCodesAreTheTable :=
  ⟨rfl, fun _ => rfl, rfl, rfl, rfl, fun _ => rfl, rfl⟩

/-! ### The first error of each operation (R153) -/

/-- WRITE's tests in their order: the size, the state, then T_WRITE's answer. -/
theorem write_reports_first_error {len : Len} {pay : List Byte} {s t : State}
    (hx : exec (.hostWrite len pay) s = .next t) :
    if len.toNat < 24 ∨ 512 < len.toNat then t.reply = some (.error .payloadSize)
    else if s.lc ≠ 1 ∨ sampleIsOpen s = false then t.reply = some (.error .notOpen)
    else ∃ a, t.trace = s.trace ++ [{ prim := .write (encodeFrame len pay), answer := a }] ∧
      t.reply = some (replyOf a) := by
  cases completes_of_exec hx with
  | writeBadSize hsize =>
    rw [if_pos ((sizeOk_eq_false_iff len).1 hsize)]
    rfl
  | writeNotOpen hsize hlc hmay =>
    rw [if_neg ((sizeOk_eq_false_iff len).not.1 (by simp [hsize])), if_pos ((mayWrite_eq_false_iff _ hlc).1 hmay)]
    rfl
  | @writeAnswered _ _ _ _ a hsize hlc hmay =>
    rw [if_neg ((sizeOk_eq_false_iff len).not.1 (by simp [hsize])),
      if_neg ((mayWrite_eq_false_iff _ hlc).not.1 (by simp [hmay]))]
    exact ⟨a, by simp [written, writing], by simp [written, report_eq_endWith]⟩

/-- OPEN's tests, then T_OPEN's answer. -/
theorem open_reports_first_error {n : PortName} {s t : State} (hx : exec (.hostOpen n) s = .next t) :
    (openTurnedAway s ∧ t.reply = some (.error .alreadyOpen) ∧ t.trace = s.trace) ∨
    (¬ openTurnedAway s ∧ ∃ a, t.trace = s.trace ++ [{ prim := .openPort n serial8N1, answer := a }] ∧
      t.reply = some (replyOf a)) := by
  cases completes_of_exec hx with
  | openTurnedAway _ hlc hmay => exact .inl ⟨openTurnedAway_of_mayOpen hlc hmay, rfl, rfl⟩
  | @openAnswered _ _ _ a _ hlc hmay =>
    exact .inr ⟨not_openTurnedAway_of_mayOpen hlc hmay, a, by simp [serial_eq_serial8N1], reply_finishOpen a _⟩

theorem close_reports_first_error {s t : State} (hx : exec .hostClose s = .next t) :
    (t.reply = some .ok ∧ t.trace = s.trace) ∨
    ∃ a, t.trace = s.trace ++ [{ prim := .close, answer := a }] ∧ t.reply = some (replyOf a) := by
  cases completes_of_exec hx with
  | closeReleased => exact .inl ⟨rfl, rfl⟩
  | @closeAnswered _ _ a => exact .inr ⟨a, by simp, by simp [report_eq_endWith]⟩

theorem dispose_reports_first_error {s t : State} (hx : exec .hostDispose s = .next t) :
    (t.reply = some .ok ∧ t.trace = s.trace) ∨
    ∃ r1 r2, t.trace = s.trace ++ [{ prim := .close, answer := r1 }, { prim := .dispose, answer := r2 }] ∧
      t.reply = some (disposeReply r1 r2) := by
  cases completes_of_exec hx with
  | disposeReleased => exact .inl ⟨rfl, rfl⟩
  | @disposeAnswered _ r1 r2 =>
    exact .inr ⟨r1, r2, by simp [disposed], by simp [disposed, report_eq_endWith, replyOf_firstFailure]⟩

/-- The one meaning of the three reserved codes (R107). -/
theorem reserved_reports_illegalOp {s t : State} (hx : illegalOp s = .next t) :
    t.reply = some (.error .illegalOp) ∧ t.trace = s.trace := by
  cases hx
  exact ⟨rfl, rfl⟩

/-- Settles O42, operation by operation. -/
theorem firstErrorIsTheOneReported : Obligations.FirstErrorIsTheOneReported := by
  intro s t
  refine ⟨fun len pay => write_reports_first_error, fun n => open_reports_first_error, close_reports_first_error,
    dispose_reports_first_error, ?_⟩
  rintro (hx | hx | hx) <;> exact reserved_reports_illegalOp hx

/-! ### What each failure leaves behind (R154) -/

/-- Settles O43: a check fails before anything is written; a transport failure is the answer of one of the exchanges
the operation has issued. -/
theorem failuresArePrecise : Obligations.FailuresArePrecise := by
  intro i s t k hi hx hreply
  refine ⟨unchanged_of_validation_error hi hx hreply, ?_⟩
  rintro e rfl
  obtain ⟨issued, htrace, h⟩ := hostIssues_of_exec hi hx
  cases h with
  | nothing hnone => exact absurd hreply (hnone e)
  | openPort a =>
    rw [reply_finishOpen] at hreply
    obtain rfl := replyOf_eq_transport (Option.some.inj hreply)
    exact ⟨by simp [SameRegisters], htrace⟩
  | write a _ _ _ hregs ha =>
    obtain rfl := replyOf_eq_transport (Option.some.inj (ha.symm.trans hreply))
    exact ⟨hregs, htrace⟩
  | close a hheld ha =>
    obtain rfl := replyOf_eq_transport (Option.some.inj (ha.symm.trans hreply))
    obtain ⟨hlc, hrel, hvalid, hname⟩ := registers_of_close hx
    exact ⟨by simpa [hheld] using hlc, hrel, hvalid, hname, htrace⟩
  | dispose r1 r2 hheld hrel ha =>
    obtain ⟨hlc, -, hvalid, hname⟩ := registers_of_dispose hx
    exact ⟨by simpa [hheld] using hlc, hrel, hvalid, hname, r1, r2, htrace, Option.some.inj (ha.symm.trans hreply)⟩

end Sys2Proof.Claims

/-! ## The other ways a step goes: it waits, it resets, or it refuses (R180, R181; logs 13, 24) -/

namespace Sys2Proof.Claims

open Sys2Proof.Machine

theorem step_of_nothing_presented {s : State} (hpending : s.pending = []) : step s = .next s := by
  simp only [step, hpending]

/-- A reset leaves the queue, and the framer is reset with the rest of the queue still presented. -/
theorem step_of_reset {s : State} {rest : List Request} (hpending : s.pending = .reset :: rest) :
    step s = .next (resetFramer { s with pending := rest }) := by
  simp only [step, hpending, Request.encoded]

theorem step_of_decode_error {s : State} {r : Request} {rest : List Request} {e : Encoded} {why : DecodeError}
    (hpending : s.pending = r :: rest) (hencoded : r.encoded = some e) (hdecode : decode e = .error why) :
    step s = .refused (.undecodable why) := by
  simp only [step, hpending, hencoded, hdecode]

/-- Settles O48: the next state is `resetFramer` of the state with the request taken, whose fields are those of
`State.reset` or of the world outside; taking a request does not move the line, and neither does the reset. -/
theorem resetRequestRestarts : Obligations.ResetRequestRestarts := by
  intro s rest hpending
  have hline : lineOpen (resetFramer { s with pending := rest }) = lineOpen s :=
    (lineOpen_resetFramer _).trans (lineOpen_congr rfl rfl)
  exact ⟨_, step_of_reset hpending, rfl, rfl, rfl, rfl, rfl, rfl, rfl, rfl, rfl, rfl, hline⟩

/-- Settles O50, by the head of the queue: none, a command (every word of the command port decodes), or bytes that the
decoder turns away. -/
theorem stepWaitsOrRunsTheCommand : Obligations.StepWaitsOrRunsTheCommand := by
  intro s
  refine ⟨step_of_nothing_presented, ?command, ?packet⟩
  case command =>
    intro w rest hpending
    exact step_of_decode_ok hpending rfl rfl
  case packet =>
    intro bytes rest why hpending hdecode
    exact step_of_decode_error hpending rfl hdecode

end Sys2Proof.Claims
